-- ==== Sys2Proof/Word.lean ====
section
/-! DEFINITION. The word types of the machine (spec/00_scope.md R8): what the spec treats as bits. -/

namespace Sys2Proof

/-- A byte: the unit of the bus's address space (20_memory.md R60). -/
abbrev Byte := BitVec 8

/-- A 16-bit value: a short operand field, or the packed status word. -/
abbrev Half := BitVec 16

/-- A 32-bit value: a register, an address or a long operand (10_state.md R20, 20_memory.md R60). -/
abbrev Long := BitVec 32

end Sys2Proof
end

