-- ==== Sys2Proof/Syntax.lean ====
section
/-! DEFINITION. Register names, addressing-mode tags, handler kinds, opcode descriptors and instructions, as
spec/10_state.md, 30_encoding.md and 43_handlers.md name them. Syntax only: no meaning stands here. -/

namespace Sys2Proof

/-- An address register A0..A7 of an addressing mode (30_encoding.md R97). `a7` is the active stack pointer
(10_state.md R23). -/
inductive AddrReg where
  | an (i : Fin 7)
  | a7
  deriving DecidableEq, Repr, Inhabited

/-- A register name: those of 10_state.md R20, and A7 (R23). -/
inductive Reg where
  | d (i : Fin 8)
  | a (i : Fin 7)
  | a7
  | usp
  | ssp
  | sr
  deriving DecidableEq, Repr, Inhabited

/-- An index register Xi: D0..D7 or A0..A7 (30_encoding.md R97). -/
inductive IndexReg where
  | d (i : Fin 8)
  | addr (r : AddrReg)
  deriving DecidableEq, Repr, Inhabited

/-- The index size xs: a sign-extended word or a full long (30_encoding.md R97, 41_addressing.md R150). -/
inductive IndexSize where
  | w
  | l
  deriving DecidableEq, Repr, Inhabited

/-- The thirteen addressing-mode tags of 30_encoding.md R97. -/
inductive Mode where
  | none
  | regDirect (r : Reg)
  | indirect (r : AddrReg)
  | postInc (r : AddrReg)
  | preDec (r : AddrReg)
  | disp8 (r : AddrReg)
  | disp16 (r : AddrReg)
  | indexed (r : AddrReg) (x : IndexReg) (xs : IndexSize)
  | pcDisp16
  | pcIndexed (x : IndexReg) (xs : IndexSize)
  | absShort
  | absLong
  | immediate
  deriving DecidableEq, Repr, Inhabited

/-- The handler kinds of 43_handlers.md R200. -/
inductive Kind where
  | unimpl
  | brk
  | cop
  | stop
  | push
  | pull
  | rti
  | jmps
  | jmpl
  | jmpv
  | call
  | ret
  | load
  | store
  | other
  deriving DecidableEq, Repr, Inhabited

/-- An opcode descriptor (30_encoding.md R92), field by field. `w` and `count` are byte counts; `w` is checked
by WF3 and `count` at execution. -/
structure Descriptor where
  opcode : Byte
  mnemonic : String
  baseLength : Nat
  mode : Mode
  actionReg : Option Reg
  lenAdj : Bool
  w : Nat
  count : Nat
  kind : Kind
  stepOver : Bool
  cycles : Nat
  deriving DecidableEq, Repr, Inhabited

/-- The opcode ROM (30_encoding.md R90) as plain data: the descriptors of the bound opcodes, by rising opcode
(WF7). Every opcode not listed has the UNIMPL descriptor of R106, so the table has 256 rows. -/
abbrev Rom := List Descriptor

/-- The software traps an OTHER handler may enter (43_handlers.md R215). -/
inductive SoftTrap where
  | brk
  | cop
  deriving DecidableEq, Repr, Inhabited

/-- One operation of a configuration-supplied handler: exactly the primitives 43_handlers.md R215 lists, over a
list of values the handler has computed so far. A value operand is a position in that list; a position nothing
stands at yet holds 0 (log 12). `sig` is the raw signature value, `pc` the pc the handler sees (42_engine.md R173),
`ea` the address or immediate that `resolve` returned (41_addressing.md R140). `compute` is the handler's own
arithmetic, the uninterpreted total function `Config.otherFn k`. `skipUnless c k` skips the next `k` operations when
the value at `c` is 0, which makes what comes after it depend on a value; a skipped operation that would add a value
adds 0, so that positions do not move. `fail n` reports InvalidOperandWidth(n). -/
inductive OtherOp where
  | const (v : Long)
  | sig
  | pc
  | compute (k : Nat) (args : List Nat)
  | skipUnless (cond : Nat) (k : Nat)
  | readReg (r : Reg) (n : Nat)
  | writeReg (r : Reg) (n : Nat) (v : Nat)
  | setZ (v : Nat)
  | setNZ (v : Nat) (n : Nat)
  | pack
  | unpack (v : Nat)
  | resolve
  | ea
  | readOp (n : Nat)
  | writeOp (n : Nat) (v : Nat)
  | memRead (addr : Nat) (n : Nat)
  | memWrite (addr : Nat) (n : Nat) (v : Nat)
  | jumpShort (v : Nat)
  | jumpLong (v : Nat)
  | jumpVector (v : Nat)
  | enter (t : SoftTrap)
  | wait
  | fail (n : Nat)
  deriving DecidableEq, Repr, Inhabited

/-- A handler of kind OTHER: a finite program over the primitives of 43_handlers.md R215. -/
abbrev OtherProgram := List OtherOp

/-- The instructions: one constructor per row of spec/opcode_table.json, with the row's operand fields. The last
constructor, `configured`, is an instruction of a ROM row that is none of the table's (any other descriptor a
configuration binds, 30_encoding.md R90): the descriptor and the raw signature value. -/
inductive Instr where
  | brk
  | stop
  | cop
  | rti
  | jmps (a16 : Half)
  | jmpl (a32 : Long)
  | jmpv (a32 : Long)
  | call (a32 : Long)
  | ret
  | loadLImmD0 (imm32 : Long)
  | loadBImmD1 (imm8 : Byte)
  | loadWPostIncA0D0
  | storeLD0PreDecA1
  | loadLImmA0 (imm32 : Long)
  | loadLImmA1 (imm32 : Long)
  | storeWD0Disp16A0 (d16 : Half)
  | loadLAbsLongD2 (a32 : Long)
  | storeBD0AbsShort (a16 : Half)
  | loadLIndexedA0D1D3 (d8 : Byte)
  | loadWPcDisp16D4 (d16 : Half)
  | loadBIndirectA0D5
  | loadLD0D6
  | loadWDisp8A0D7 (d8 : Byte)
  | loadLPcIndexedD1D2 (d8 : Byte)
  | pushLD0
  | pullLD5
  | pushD0Count3
  | pushWSr
  | pullWSr
  | loadWImmSr (imm16 : Half)
  | unimpl (opcode : Byte)
  | other (d : Descriptor) (sig : Long)
  | configured (d : Descriptor) (sig : Long)
  deriving DecidableEq, Repr, Inhabited

end Sys2Proof
end

