-- ==== Sys2Proof/Machine/Layout.lean ====
section
/-! DEFINITION. What a descriptor's fields amount to: register widths, field sizes, the length rule, the ROM's
rows (spec/10_state.md R20, 30_encoding.md R90-R98). -/

namespace Sys2Proof

/-- REG_WIDTH(r) in bits (00_scope.md R6, 10_state.md R20). -/
def Reg.width : Reg → Nat
  | .sr => 16
  | .d _ | .a _ | .a7 | .usp | .ssp => 32

/-- An address register of a mode, as a register name. -/
def AddrReg.toReg : AddrReg → Reg
  | .an i => .a i
  | .a7 => .a7

/-- An index register, as a register name. -/
def IndexReg.toReg : IndexReg → Reg
  | .d i => .d i
  | .addr r => r.toReg

/-- A byte count the buses and ports take: 1, 2 or 4 (00_scope.md R9). -/
def validCount (n : Nat) : Bool := n == 1 || n == 2 || n == 4

/-- Whether the ports of 40_flags.md R130 and R131 raise InvalidOperandWidth for register `r` at `n` bytes. -/
def Reg.badWidth (r : Reg) (n : Nat) : Bool := !validCount n || decide (r.width < 8 * n)

/-- fieldBytes of a mode at operand width `w` (30_encoding.md R97). -/
def Mode.fieldBytes (m : Mode) (w : Nat) : Nat :=
  match m with
  | .none | .regDirect _ | .indirect _ | .postInc _ | .preDec _ => 0
  | .disp8 _ | .indexed _ _ _ | .pcIndexed _ _ => 1
  | .disp16 _ | .pcDisp16 | .absShort => 2
  | .absLong => 4
  | .immediate => w

/-- The extra byte of the length rule: one when the family adjusts and the action register is 16 bits wide
(30_encoding.md R94). -/
def Descriptor.lengthAdjust (d : Descriptor) : Nat :=
  match d.lenAdj, d.actionReg with
  | true, some r => if r.width = 16 then 1 else 0
  | _, _ => 0

/-- The instruction length in bytes (30_encoding.md R94). -/
def Descriptor.length (d : Descriptor) : Nat := d.baseLength + d.lengthAdjust

/-- The descriptor of an opcode that nothing binds (30_encoding.md R93, R106). -/
def unimplRow (op : Byte) : Descriptor :=
  { opcode := op, mnemonic := "UNIMPL", baseLength := 1, mode := .none, actionReg := none, lenAdj := false
    w := 1, count := 0, kind := .unimpl, stepOver := false, cycles := 0 }

/-- ROM[op]: the row of an opcode byte (30_encoding.md R90). Total: every byte value has a descriptor. -/
def Rom.row (rom : Rom) (op : Byte) : Descriptor :=
  (rom.find? fun d => d.opcode == op).getD (unimplRow op)

/-- The raw signature value of signature bytes b1, b2, ...: their big-endian concatenation (30_encoding.md R96). -/
def sigOf (bytes : List Byte) : Long :=
  bytes.foldl (fun acc b => (acc <<< 8) ||| b.setWidth 32) 0

/-- The low 8n bits of a long: v mod 2^(8n) for a byte count n (00_scope.md R8). -/
def lowBytes (n : Nat) (v : Long) : Long := v &&& (BitVec.ofNat 32 (2 ^ (8 * n) - 1))

/-- The mode's field of a signature: its first fieldBytes bytes (30_encoding.md R98). -/
def Descriptor.field (d : Descriptor) (sig : Long) : Long :=
  let k := d.mode.fieldBytes d.w
  lowBytes k (sig >>> (8 * (d.length - 1 - k)))

end Sys2Proof
end

