-- ==== Sys2Proof/WellFormed.lean ====
section
/-! DEFINITION. The well-formedness checks of a ROM (spec/30_encoding.md R100, WF1-WF7), each with its name, and of
an instruction as syntax; what an OTHER handler's operations need (43_handlers.md R215). -/

namespace Sys2Proof

/-- The checks of 30_encoding.md R100, by name. -/
inductive WfCheck where
  | wf1Length
  | wf2FieldsFit
  | wf3Width
  | wf4Brk
  | wf5Operands
  | wf6Immediate
  | wf7Index
  deriving DecidableEq, Repr, Inhabited

/-- WF1: 1 <= length(d) <= MAX_LEN = 5 (R95), with the base length in the range 1..MAX_LEN of its field (R92; under
which check a base length outside it is reported is the model's choice, log 15). -/
def Descriptor.wf1 (d : Descriptor) : Bool :=
  decide (1 ≤ d.baseLength) && decide (d.baseLength ≤ 5) && decide (1 ≤ d.length) && decide (d.length ≤ 5)

/-- WF2: the mode's field fits in the signature bytes. -/
def Descriptor.wf2 (d : Descriptor) : Bool := decide (d.mode.fieldBytes d.w ≤ d.length - 1)

/-- WF3: the operand width is 1, 2 or 4 bytes. -/
def Descriptor.wf3 (d : Descriptor) : Bool := validCount d.w

/-- WF4: opcode 0x00 is BRK with mnemonic "BRK" (R101); 43_handlers.md R202 gives the rest of that fixed
descriptor under this check: length 1, mode None, no action register, stepOver 0 (DEDUCED, log 16). -/
def Descriptor.wf4 (d : Descriptor) : Bool :=
  d.opcode != 0 ||
    (d.kind == .brk && d.mnemonic == "BRK" && d.length == 1 && d.mode == .none && d.actionReg == none && !d.stepOver)

/-- WF5: the operands the kind needs are present. -/
def Descriptor.wf5 (d : Descriptor) : Bool :=
  match d.kind with
  | .load | .store => d.actionReg.isSome && d.mode != .none
  | .push | .pull => d.actionReg.isSome != (d.mode != .none)
  | .jmps => d.mode == .absShort
  | .jmpl | .jmpv | .call => d.mode == .absLong
  | .unimpl | .brk | .cop | .stop | .rti | .ret | .other => true

/-- WF6: an immediate is not a destination. -/
def Descriptor.wf6 (d : Descriptor) : Bool :=
  match d.kind with
  | .store | .pull => d.mode != .immediate
  | .unimpl | .brk | .cop | .stop | .push | .rti | .jmps | .jmpl | .jmpv | .call | .ret | .load | .other => true

/-- The first check a descriptor fails, by name, in the order WF1..WF6. The spec does not say which check names the
refusal when several fail: the order is the model's choice (log 15). WF7 is about the table, not about one row. -/
def Descriptor.failure (d : Descriptor) : Option WfCheck :=
  if d.wf1 = false then some .wf1Length
  else if d.wf2 = false then some .wf2FieldsFit
  else if d.wf3 = false then some .wf3Width
  else if d.wf4 = false then some .wf4Brk
  else if d.wf5 = false then some .wf5Operands
  else if d.wf6 = false then some .wf6Immediate
  else none

/-- The first listed descriptor that fails a check, with the check and the opcode. -/
def Rom.rowFailure : Rom → Option (WfCheck × Byte)
  | [] => none
  | d :: ds =>
    match d.failure with
    | some c => some (c, d.opcode)
    | none => Rom.rowFailure ds

/-- WF7 on the listed rows: the opcodes rise strictly, so every opcode has one descriptor and it is its own
index. The answer is the opcode that breaks the order. -/
def Rom.orderFailure : Rom → Option Byte
  | [] => none
  | [_] => none
  | d :: e :: ds => if d.opcode.toNat < e.opcode.toNat then Rom.orderFailure (e :: ds) else some e.opcode

/-- Why a ROM is refused at construction: the failing check and the opcode (30_encoding.md R100). Where several
checks fail the spec does not say which one names the refusal; the model reports WF7 first, then the first listed row
that fails with its first failing check, then a missing BRK row (DESIGN CHOICE, log 15). -/
def Rom.failure (rom : Rom) : Option (WfCheck × Byte) :=
  match Rom.orderFailure rom with
  | some op => some (.wf7Index, op)
  | none =>
    match Rom.rowFailure rom with
    | some f => some f
    | none => if (rom.row 0).kind = .brk then none else some (.wf4Brk, 0)

/-- A well-formed ROM. -/
def Rom.wf (rom : Rom) : Bool := (Rom.failure rom).isNone

/-- Whether an operation of an OTHER handler can raise InvalidOperandWidth under descriptor `d`, once the mode is
resolved (41_addressing.md R156, R157; 40_flags.md R121, R130, R131). -/
def OtherOp.mayRaise (d : Descriptor) : OtherOp → Bool
  | .readReg r n | .writeReg r n _ => r.badWidth n
  | .setNZ _ n | .memRead _ n | .memWrite _ n _ => !validCount n
  | .ea =>
    match d.mode with
    | .none | .regDirect _ => true
    | _ => false
  | .readOp n =>
    match d.mode with
    | .none => true
    | .regDirect r => r.badWidth n
    | .immediate => false
    | _ => !validCount n
  | .writeOp n _ =>
    match d.mode with
    | .none | .immediate => true
    | .regDirect r => r.badWidth n
    | _ => !validCount n
  | .fail _ => true
  | .const _ | .sig | .pc | .compute _ _ | .skipUnless _ _ | .setZ _ | .pack | .unpack _ | .resolve | .jumpShort _
  | .jumpLong _ | .jumpVector _ | .enter _ | .wait => false

/-- Whether an operation uses the operand that `resolve` returned. -/
def OtherOp.usesOperand : OtherOp → Bool
  | .ea | .readOp _ | .writeOp _ _ => true
  | .const _ | .sig | .pc | .compute _ _ | .skipUnless _ _ | .readReg _ _ | .writeReg _ _ _ | .setZ _ | .setNZ _ _
  | .pack | .unpack _ | .resolve | .memRead _ _ | .memWrite _ _ _ | .jumpShort _ | .jumpLong _ | .jumpVector _
  | .enter _ | .wait | .fail _ => false

/-- Whether an operation adds a value to the handler's list. -/
def OtherOp.yields : OtherOp → Bool
  | .const _ | .sig | .pc | .compute _ _ | .readReg _ _ | .pack | .ea | .readOp _ | .memRead _ _ => true
  | .skipUnless _ _ | .writeReg _ _ _ | .setZ _ | .setNZ _ _ | .unpack _ | .resolve | .writeOp _ _
  | .memWrite _ _ _ | .jumpShort _ | .jumpLong _ | .jumpVector _ | .enter _ | .wait | .fail _ => false

/-- A signature value of an instruction of `d` has 8(L-1) bits (30_encoding.md R96). -/
def Descriptor.sigFits (d : Descriptor) (sig : Long) : Bool := decide (sig.toNat < 2 ^ (8 * (d.length - 1)))

/-- A well-formed instruction, as syntax. The table's rows carry operand fields of the row's own widths and are
always well-formed; the two constructors that carry a descriptor need one that passes WF1-WF6, of a kind of
theirs, with a signature that fits. -/
def Instr.wf : Instr → Bool
  | .other d sig => d.kind == .other && d.failure.isNone && d.sigFits sig
  | .configured d sig => d.kind != .other && d.kind != .unimpl && d.failure.isNone && d.sigFits sig
  | .brk | .stop | .cop | .rti | .jmps _ | .jmpl _ | .jmpv _ | .call _ | .ret | .loadLImmD0 _ | .loadBImmD1 _
  | .loadWPostIncA0D0 | .storeLD0PreDecA1 | .loadLImmA0 _ | .loadLImmA1 _ | .storeWD0Disp16A0 _
  | .loadLAbsLongD2 _ | .storeBD0AbsShort _ | .loadLIndexedA0D1D3 _ | .loadWPcDisp16D4 _ | .loadBIndirectA0D5
  | .loadLD0D6 | .loadWDisp8A0D7 _ | .loadLPcIndexedD1D2 _ | .pushLD0 | .pullLD5 | .pushD0Count3 | .pushWSr
  | .pullWSr | .loadWImmSr _ | .unimpl _ => true

end Sys2Proof
end

