-- ==== Sys2Proof/Config.lean ====
section
/-! DEFINITION. The configuration of the machine: the OPEN parameters of spec/00_scope.md R6 as plain data, and
the host functions and values the spec leaves open, as uninterpreted constants. -/

namespace Sys2Proof

/-- PC_BITS, one of 24 and 32 (10_state.md R25). -/
inductive PcBits where
  | b24
  | b32
  deriving DecidableEq, Repr, Inhabited

/-- The width as a number. -/
def PcBits.bits : PcBits → Nat
  | .b24 => 24
  | .b32 => 32

/-- The entries of the vector table other than RESET (60_exceptions.md R290, R292). -/
inductive Trap where
  | brk
  | cop
  | abort
  | nmi
  | irq
  deriving DecidableEq, Repr, Inhabited

/-- The OPEN parameters of 00_scope.md R6. Fixed while the machine runs: no step writes them (10_state.md R51).
`others` holds execOther (43_handlers.md R215): the handler program of each opcode that has one. -/
structure Config where
  pcBits : PcBits
  memLimit : Nat
  rom : Rom
  vecBrk : Long
  vecCop : Long
  vecAbort : Long
  vecNmi : Long
  vecIrq : Long
  spReset : Long
  irqLevel : BitVec 3
  intCycles : Nat
  others : List (Byte × OtherProgram)
  deriving DecidableEq, Repr, Inhabited

/-- Why a configuration is refused at construction: a parameter outside the range 00_scope.md R6 gives it, or an
ill-formed ROM with its check and opcode (30_encoding.md R100). -/
inductive ConfigFailure where
  | memLimitRange
  | vectorsOverlap
  | irqLevelRange
  | rom (c : WfCheck) (opcode : Byte)
  deriving DecidableEq, Repr, Inhabited

/-- Two 4-byte cells do not overlap, modulo 2^32 (60_exceptions.md R292). -/
def cellsApart (a b : Long) : Bool := decide (4 ≤ (a - b).toNat) && decide (4 ≤ (b - a).toNat)

/-- Every two cells of a list lie apart. -/
def allCellsApart : List Long → Bool
  | [] => true
  | a :: as => (as.all fun b => cellsApart a b) && allCellsApart as

/-- The check at construction. `vecReset` is passed in: it is a constant of the machine. -/
def Config.failure (vecReset : Long) (c : Config) : Option ConfigFailure :=
  if !(decide (1 ≤ c.memLimit) && decide (c.memLimit ≤ 2 ^ c.pcBits.bits)) then some .memLimitRange
  else if !allCellsApart [vecReset, c.vecBrk, c.vecCop, c.vecAbort, c.vecNmi, c.vecIrq] then some .vectorsOverlap
  else if c.irqLevel = 0 then some .irqLevelRange
  else
    match Rom.failure c.rom with
    | some (k, op) => some (.rom k op)
    | none => none

/-- The record Decode(a) returns (42_engine.md R183). -/
structure DecodeRecord where
  address : Long
  opcode : Byte
  descriptor : Descriptor
  length : Nat
  bytes : List Byte
  sig : Long
  implemented : Bool
  truncated : Bool
  deriving DecidableEq, Repr, Inhabited

/-- RENDER, the host's text function of a decoded instruction (00_scope.md R6, 44_debugger.md R262): OPEN, so it
has no body and a claim holds for every one (log 14). -/
opaque Config.render : DecodeRecord → String

/-- The arithmetic of configuration-supplied handlers (43_handlers.md R215): function number `k` on a list of
values. OPEN, so it has no body and a claim holds for every one (log 12). -/
opaque Config.otherFn : Nat → List Long → Long

/-- Whether a STORE whose mode is RegDirect(SR) writes SR. By 43_handlers.md R214 it is a move through xw, which writes
every field (40_flags.md R131); by 10_state.md R33 no rule but the listed ones writes SR, and STORE is not listed. No
ruling of the spec names the point, so it is OPEN here: the constant has no body and a claim holds for either (log 21). -/
opaque Config.storeWritesSr : Bool

/-- What the registers hold before the first Reset, by a number for each. The spec leaves every value unspecified and
a model must not pick one (10_state.md R56): free values, with no body (log 8). -/
opaque Config.powerOnWord : Nat → Long

end Sys2Proof
end

