-- ==== Sys2Proof/Decode.lean ====
section
/-! DEFINITION. The opcode map of the reference configuration TEST_ROM (spec/30_encoding.md R106), the decoder of a
ROM, and the encoder. -/

namespace Sys2Proof

/-- 0x00 BRK. -/
def rowBrk : Descriptor :=
  { opcode := 0x00, mnemonic := "BRK", baseLength := 1, mode := .none, actionReg := none, lenAdj := false
    w := 1, count := 0, kind := .brk, stepOver := false, cycles := 4 }

/-- 0x01 STOP. -/
def rowStop : Descriptor :=
  { opcode := 0x01, mnemonic := "STOP", baseLength := 1, mode := .none, actionReg := none, lenAdj := false
    w := 1, count := 0, kind := .stop, stepOver := false, cycles := 4 }

/-- 0x02 COP. -/
def rowCop : Descriptor :=
  { opcode := 0x02, mnemonic := "COP", baseLength := 1, mode := .none, actionReg := none, lenAdj := false
    w := 1, count := 0, kind := .cop, stepOver := false, cycles := 4 }

/-- 0x03 RTI. -/
def rowRti : Descriptor :=
  { opcode := 0x03, mnemonic := "RTI", baseLength := 1, mode := .none, actionReg := none, lenAdj := false
    w := 4, count := 0, kind := .rti, stepOver := false, cycles := 4 }

/-- 0x04 JMPS $a16.W. -/
def rowJmps : Descriptor :=
  { opcode := 0x04, mnemonic := "JMPS $a16.W", baseLength := 3, mode := .absShort, actionReg := none
    lenAdj := false, w := 2, count := 0, kind := .jmps, stepOver := false, cycles := 4 }

/-- 0x05 JMPL $a32.L. -/
def rowJmpl : Descriptor :=
  { opcode := 0x05, mnemonic := "JMPL $a32.L", baseLength := 5, mode := .absLong, actionReg := none
    lenAdj := false, w := 4, count := 0, kind := .jmpl, stepOver := false, cycles := 4 }

/-- 0x06 JMPV ($a32.L). -/
def rowJmpv : Descriptor :=
  { opcode := 0x06, mnemonic := "JMPV ($a32.L)", baseLength := 5, mode := .absLong, actionReg := none
    lenAdj := false, w := 4, count := 0, kind := .jmpv, stepOver := false, cycles := 4 }

/-- 0x07 CALL $a32.L. -/
def rowCall : Descriptor :=
  { opcode := 0x07, mnemonic := "CALL $a32.L", baseLength := 5, mode := .absLong, actionReg := none
    lenAdj := false, w := 4, count := 0, kind := .call, stepOver := true, cycles := 4 }

/-- 0x08 RET. -/
def rowRet : Descriptor :=
  { opcode := 0x08, mnemonic := "RET", baseLength := 1, mode := .none, actionReg := none, lenAdj := false
    w := 4, count := 0, kind := .ret, stepOver := false, cycles := 4 }

/-- 0x10 LOAD.L #imm,D0. -/
def rowLoadLImmD0 : Descriptor :=
  { opcode := 0x10, mnemonic := "LOAD.L #imm,D0", baseLength := 5, mode := .immediate, actionReg := some (.d 0)
    lenAdj := false, w := 4, count := 0, kind := .load, stepOver := false, cycles := 4 }

/-- 0x11 LOAD.B #imm,D1. -/
def rowLoadBImmD1 : Descriptor :=
  { opcode := 0x11, mnemonic := "LOAD.B #imm,D1", baseLength := 2, mode := .immediate, actionReg := some (.d 1)
    lenAdj := false, w := 1, count := 0, kind := .load, stepOver := false, cycles := 4 }

/-- 0x12 LOAD.W (A0)+,D0. -/
def rowLoadWPostIncA0D0 : Descriptor :=
  { opcode := 0x12, mnemonic := "LOAD.W (A0)+,D0", baseLength := 1, mode := .postInc (.an 0)
    actionReg := some (.d 0), lenAdj := false, w := 2, count := 0, kind := .load, stepOver := false, cycles := 4 }

/-- 0x13 STORE.L D0,-(A1). -/
def rowStoreLD0PreDecA1 : Descriptor :=
  { opcode := 0x13, mnemonic := "STORE.L D0,-(A1)", baseLength := 1, mode := .preDec (.an 1)
    actionReg := some (.d 0), lenAdj := false, w := 4, count := 0, kind := .store, stepOver := false, cycles := 4 }

/-- 0x14 LOAD.L #imm,A0. -/
def rowLoadLImmA0 : Descriptor :=
  { opcode := 0x14, mnemonic := "LOAD.L #imm,A0", baseLength := 5, mode := .immediate, actionReg := some (.a 0)
    lenAdj := false, w := 4, count := 0, kind := .load, stepOver := false, cycles := 4 }

/-- 0x15 LOAD.L #imm,A1. -/
def rowLoadLImmA1 : Descriptor :=
  { opcode := 0x15, mnemonic := "LOAD.L #imm,A1", baseLength := 5, mode := .immediate, actionReg := some (.a 1)
    lenAdj := false, w := 4, count := 0, kind := .load, stepOver := false, cycles := 4 }

/-- 0x16 STORE.W D0,d16(A0). -/
def rowStoreWD0Disp16A0 : Descriptor :=
  { opcode := 0x16, mnemonic := "STORE.W D0,d16(A0)", baseLength := 3, mode := .disp16 (.an 0)
    actionReg := some (.d 0), lenAdj := false, w := 2, count := 0, kind := .store, stepOver := false, cycles := 4 }

/-- 0x17 LOAD.L $a32.L,D2. -/
def rowLoadLAbsLongD2 : Descriptor :=
  { opcode := 0x17, mnemonic := "LOAD.L $a32.L,D2", baseLength := 5, mode := .absLong, actionReg := some (.d 2)
    lenAdj := false, w := 4, count := 0, kind := .load, stepOver := false, cycles := 4 }

/-- 0x18 STORE.B D0,$a16.W. -/
def rowStoreBD0AbsShort : Descriptor :=
  { opcode := 0x18, mnemonic := "STORE.B D0,$a16.W", baseLength := 3, mode := .absShort, actionReg := some (.d 0)
    lenAdj := false, w := 1, count := 0, kind := .store, stepOver := false, cycles := 4 }

/-- 0x19 LOAD.L d8(A0,D1.W),D3. -/
def rowLoadLIndexedA0D1D3 : Descriptor :=
  { opcode := 0x19, mnemonic := "LOAD.L d8(A0,D1.W),D3", baseLength := 2, mode := .indexed (.an 0) (.d 1) .w
    actionReg := some (.d 3), lenAdj := false, w := 4, count := 0, kind := .load, stepOver := false, cycles := 4 }

/-- 0x1A LOAD.W d16(PC),D4. -/
def rowLoadWPcDisp16D4 : Descriptor :=
  { opcode := 0x1A, mnemonic := "LOAD.W d16(PC),D4", baseLength := 3, mode := .pcDisp16, actionReg := some (.d 4)
    lenAdj := false, w := 2, count := 0, kind := .load, stepOver := false, cycles := 4 }

/-- 0x1B LOAD.B (A0),D5. -/
def rowLoadBIndirectA0D5 : Descriptor :=
  { opcode := 0x1B, mnemonic := "LOAD.B (A0),D5", baseLength := 1, mode := .indirect (.an 0)
    actionReg := some (.d 5), lenAdj := false, w := 1, count := 0, kind := .load, stepOver := false, cycles := 4 }

/-- 0x1C LOAD.L D0,D6. -/
def rowLoadLD0D6 : Descriptor :=
  { opcode := 0x1C, mnemonic := "LOAD.L D0,D6", baseLength := 1, mode := .regDirect (.d 0)
    actionReg := some (.d 6), lenAdj := false, w := 4, count := 0, kind := .load, stepOver := false, cycles := 4 }

/-- 0x1D LOAD.W d8(A0),D7. -/
def rowLoadWDisp8A0D7 : Descriptor :=
  { opcode := 0x1D, mnemonic := "LOAD.W d8(A0),D7", baseLength := 2, mode := .disp8 (.an 0)
    actionReg := some (.d 7), lenAdj := false, w := 2, count := 0, kind := .load, stepOver := false, cycles := 4 }

/-- 0x1E LOAD.L d8(PC,D1.L),D2. -/
def rowLoadLPcIndexedD1D2 : Descriptor :=
  { opcode := 0x1E, mnemonic := "LOAD.L d8(PC,D1.L),D2", baseLength := 2, mode := .pcIndexed (.d 1) .l
    actionReg := some (.d 2), lenAdj := false, w := 4, count := 0, kind := .load, stepOver := false, cycles := 4 }

/-- 0x20 PUSH.L D0. -/
def rowPushLD0 : Descriptor :=
  { opcode := 0x20, mnemonic := "PUSH.L D0", baseLength := 1, mode := .none, actionReg := some (.d 0)
    lenAdj := false, w := 4, count := 4, kind := .push, stepOver := false, cycles := 4 }

/-- 0x21 PULL.L D5. -/
def rowPullLD5 : Descriptor :=
  { opcode := 0x21, mnemonic := "PULL.L D5", baseLength := 1, mode := .none, actionReg := some (.d 5)
    lenAdj := false, w := 4, count := 4, kind := .pull, stepOver := false, cycles := 4 }

/-- 0x22 PUSH D0 (count 3), which makes InvalidOperandWidth reachable. -/
def rowPushD0Count3 : Descriptor :=
  { opcode := 0x22, mnemonic := "PUSH D0 (count 3)", baseLength := 1, mode := .none, actionReg := some (.d 0)
    lenAdj := false, w := 4, count := 3, kind := .push, stepOver := false, cycles := 4 }

/-- 0x23 PUSH.W SR. -/
def rowPushWSr : Descriptor :=
  { opcode := 0x23, mnemonic := "PUSH.W SR", baseLength := 1, mode := .none, actionReg := some .sr
    lenAdj := false, w := 2, count := 2, kind := .push, stepOver := false, cycles := 4 }

/-- 0x24 PULL.W SR. -/
def rowPullWSr : Descriptor :=
  { opcode := 0x24, mnemonic := "PULL.W SR", baseLength := 1, mode := .none, actionReg := some .sr
    lenAdj := false, w := 2, count := 2, kind := .pull, stepOver := false, cycles := 4 }

/-- 0x30 LOAD.W #imm,SR: base length 2, length 3 by the length rule (R94). -/
def rowLoadWImmSr : Descriptor :=
  { opcode := 0x30, mnemonic := "LOAD.W #imm,SR", baseLength := 2, mode := .immediate, actionReg := some .sr
    lenAdj := true, w := 2, count := 0, kind := .load, stepOver := false, cycles := 4 }

/-- One row of the opcode table: its descriptor, and the instruction its signature value stands for. -/
structure TableRow where
  descriptor : Descriptor
  instr : Long → Instr

/-- The rows of spec/opcode_table.json that TEST_ROM binds, with their operand fields (30_encoding.md R98). -/
def tableRows : List TableRow :=
  [⟨rowBrk, fun _ => .brk⟩, ⟨rowStop, fun _ => .stop⟩, ⟨rowCop, fun _ => .cop⟩, ⟨rowRti, fun _ => .rti⟩,
    ⟨rowJmps, fun g => .jmps (g.setWidth 16)⟩, ⟨rowJmpl, fun g => .jmpl g⟩, ⟨rowJmpv, fun g => .jmpv g⟩,
    ⟨rowCall, fun g => .call g⟩, ⟨rowRet, fun _ => .ret⟩] ++
  [⟨rowLoadLImmD0, fun g => .loadLImmD0 g⟩, ⟨rowLoadBImmD1, fun g => .loadBImmD1 (g.setWidth 8)⟩,
    ⟨rowLoadWPostIncA0D0, fun _ => .loadWPostIncA0D0⟩, ⟨rowStoreLD0PreDecA1, fun _ => .storeLD0PreDecA1⟩,
    ⟨rowLoadLImmA0, fun g => .loadLImmA0 g⟩, ⟨rowLoadLImmA1, fun g => .loadLImmA1 g⟩,
    ⟨rowStoreWD0Disp16A0, fun g => .storeWD0Disp16A0 (g.setWidth 16)⟩,
    ⟨rowLoadLAbsLongD2, fun g => .loadLAbsLongD2 g⟩,
    ⟨rowStoreBD0AbsShort, fun g => .storeBD0AbsShort (g.setWidth 16)⟩,
    ⟨rowLoadLIndexedA0D1D3, fun g => .loadLIndexedA0D1D3 (g.setWidth 8)⟩,
    ⟨rowLoadWPcDisp16D4, fun g => .loadWPcDisp16D4 (g.setWidth 16)⟩,
    ⟨rowLoadBIndirectA0D5, fun _ => .loadBIndirectA0D5⟩, ⟨rowLoadLD0D6, fun _ => .loadLD0D6⟩,
    ⟨rowLoadWDisp8A0D7, fun g => .loadWDisp8A0D7 (g.setWidth 8)⟩,
    ⟨rowLoadLPcIndexedD1D2, fun g => .loadLPcIndexedD1D2 (g.setWidth 8)⟩] ++
  [⟨rowPushLD0, fun _ => .pushLD0⟩, ⟨rowPullLD5, fun _ => .pullLD5⟩, ⟨rowPushD0Count3, fun _ => .pushD0Count3⟩,
    ⟨rowPushWSr, fun _ => .pushWSr⟩, ⟨rowPullWSr, fun _ => .pullWSr⟩,
    ⟨rowLoadWImmSr, fun g => .loadWImmSr (g.setWidth 16)⟩]

/-- TEST_ROM, the ROM of the reference instance P0 (30_encoding.md R106). -/
def testRom : Rom := tableRows.map TableRow.descriptor

/-- Two descriptors with one meaning: equal in every field but the two that no handler reads, the mnemonic shown
by the debugger and the step-over flag (43_handlers.md R216). -/
def Descriptor.sameForm (d e : Descriptor) : Bool :=
  d.opcode == e.opcode && d.baseLength == e.baseLength && d.mode == e.mode && d.actionReg == e.actionReg &&
    d.lenAdj == e.lenAdj && d.w == e.w && d.count == e.count && d.kind == e.kind && d.cycles == e.cycles

/-- The row of the opcode table a descriptor is, if it is one. -/
def tableRow (d : Descriptor) : Option TableRow := tableRows.find? fun r => d.sameForm r.descriptor

/-- The instruction of a descriptor and a signature value: the table's row where the descriptor is one, and
otherwise the descriptor itself with its signature. -/
def instrOf (d : Descriptor) (sig : Long) : Instr :=
  match d.kind with
  | .unimpl => .unimpl d.opcode
  | .other => .other d sig
  | .brk | .cop | .stop | .push | .pull | .rti | .jmps | .jmpl | .jmpv | .call | .ret | .load | .store =>
    match tableRow d with
    | some r => r.instr sig
    | none => .configured d sig

/-- Why a byte sequence is refused by the decoder. -/
inductive DecodeError where
  | noOpcodeByte
  | signatureTruncated (opcode : Byte)
  | rowIllFormed (c : WfCheck) (opcode : Byte)
  deriving DecidableEq, Repr, Inhabited

/-- Decode a byte sequence under a ROM: the instruction and the bytes after it. An UNIMPL opcode is known from its
opcode byte alone and its signature bytes are not read (42_engine.md R172); an ill-formed row is refused by check
and opcode (30_encoding.md R100). -/
def decode (rom : Rom) (bytes : List Byte) : Except DecodeError (Instr × List Byte) :=
  match bytes with
  | [] => .error .noOpcodeByte
  | op :: rest =>
    let d := rom.row op
    if d.kind = .unimpl then .ok (.unimpl op, rest)
    else
      match d.failure with
      | some c => .error (.rowIllFormed c op)
      | none =>
        if rest.length < d.length - 1 then .error (.signatureTruncated op)
        else .ok (instrOf d (sigOf (rest.take (d.length - 1))), rest.drop (d.length - 1))

/-- The low `n` bytes of a value, most significant first (20_memory.md R61, 30_encoding.md R96). -/
def bytesBE : Nat → Long → List Byte
  | 0, _ => []
  | n + 1, v => bytesBE n (v >>> 8) ++ [v.setWidth 8]

/-- The bytes of an instruction (30_encoding.md R91, R96, R106). -/
def encode : Instr → List Byte
  | .brk => [0x00]
  | .stop => [0x01]
  | .cop => [0x02]
  | .rti => [0x03]
  | .jmps a16 => 0x04 :: bytesBE 2 (a16.setWidth 32)
  | .jmpl a32 => 0x05 :: bytesBE 4 a32
  | .jmpv a32 => 0x06 :: bytesBE 4 a32
  | .call a32 => 0x07 :: bytesBE 4 a32
  | .ret => [0x08]
  | .loadLImmD0 imm32 => 0x10 :: bytesBE 4 imm32
  | .loadBImmD1 imm8 => [0x11, imm8]
  | .loadWPostIncA0D0 => [0x12]
  | .storeLD0PreDecA1 => [0x13]
  | .loadLImmA0 imm32 => 0x14 :: bytesBE 4 imm32
  | .loadLImmA1 imm32 => 0x15 :: bytesBE 4 imm32
  | .storeWD0Disp16A0 d16 => 0x16 :: bytesBE 2 (d16.setWidth 32)
  | .loadLAbsLongD2 a32 => 0x17 :: bytesBE 4 a32
  | .storeBD0AbsShort a16 => 0x18 :: bytesBE 2 (a16.setWidth 32)
  | .loadLIndexedA0D1D3 d8 => [0x19, d8]
  | .loadWPcDisp16D4 d16 => 0x1A :: bytesBE 2 (d16.setWidth 32)
  | .loadBIndirectA0D5 => [0x1B]
  | .loadLD0D6 => [0x1C]
  | .loadWDisp8A0D7 d8 => [0x1D, d8]
  | .loadLPcIndexedD1D2 d8 => [0x1E, d8]
  | .pushLD0 => [0x20]
  | .pullLD5 => [0x21]
  | .pushD0Count3 => [0x22]
  | .pushWSr => [0x23]
  | .pullWSr => [0x24]
  | .loadWImmSr imm16 => 0x30 :: bytesBE 2 (imm16.setWidth 32)
  | .unimpl op => [op]
  | .other d sig => d.opcode :: bytesBE (d.length - 1) sig
  | .configured d sig => d.opcode :: bytesBE (d.length - 1) sig

/-- The descriptor of an instruction: its row's, or the one it carries. -/
def Instr.descriptor : Instr → Descriptor
  | .brk => rowBrk
  | .stop => rowStop
  | .cop => rowCop
  | .rti => rowRti
  | .jmps _ => rowJmps
  | .jmpl _ => rowJmpl
  | .jmpv _ => rowJmpv
  | .call _ => rowCall
  | .ret => rowRet
  | .loadLImmD0 _ => rowLoadLImmD0
  | .loadBImmD1 _ => rowLoadBImmD1
  | .loadWPostIncA0D0 => rowLoadWPostIncA0D0
  | .storeLD0PreDecA1 => rowStoreLD0PreDecA1
  | .loadLImmA0 _ => rowLoadLImmA0
  | .loadLImmA1 _ => rowLoadLImmA1
  | .storeWD0Disp16A0 _ => rowStoreWD0Disp16A0
  | .loadLAbsLongD2 _ => rowLoadLAbsLongD2
  | .storeBD0AbsShort _ => rowStoreBD0AbsShort
  | .loadLIndexedA0D1D3 _ => rowLoadLIndexedA0D1D3
  | .loadWPcDisp16D4 _ => rowLoadWPcDisp16D4
  | .loadBIndirectA0D5 => rowLoadBIndirectA0D5
  | .loadLD0D6 => rowLoadLD0D6
  | .loadWDisp8A0D7 _ => rowLoadWDisp8A0D7
  | .loadLPcIndexedD1D2 _ => rowLoadLPcIndexedD1D2
  | .pushLD0 => rowPushLD0
  | .pullLD5 => rowPullLD5
  | .pushD0Count3 => rowPushD0Count3
  | .pushWSr => rowPushWSr
  | .pullWSr => rowPullWSr
  | .loadWImmSr _ => rowLoadWImmSr
  | .unimpl op => unimplRow op
  | .other d _ => d
  | .configured d _ => d

/-- A ROM binds an instruction: the row of its opcode passes its checks and is the instruction's row (a table row
may show another mnemonic or step-over flag), or the very descriptor it carries, or has kind UNIMPL. -/
def Instr.boundBy (rom : Rom) (i : Instr) : Bool :=
  let row := rom.row i.descriptor.opcode
  match i with
  | .unimpl _ => row.kind == .unimpl
  | .other d _ => row == d
  | .configured d _ => row == d && (tableRow d).isNone
  | .brk | .stop | .cop | .rti | .jmps _ | .jmpl _ | .jmpv _ | .call _ | .ret | .loadLImmD0 _ | .loadBImmD1 _
  | .loadWPostIncA0D0 | .storeLD0PreDecA1 | .loadLImmA0 _ | .loadLImmA1 _ | .storeWD0Disp16A0 _
  | .loadLAbsLongD2 _ | .storeBD0AbsShort _ | .loadLIndexedA0D1D3 _ | .loadWPcDisp16D4 _ | .loadBIndirectA0D5
  | .loadLD0D6 | .loadWDisp8A0D7 _ | .loadLPcIndexedD1D2 _ | .pushLD0 | .pullLD5 | .pushD0Count3 | .pushWSr
  | .pullWSr | .loadWImmSr _ => row.sameForm i.descriptor && row.failure.isNone

/-- The bits an instruction of the opcode table has, as bytes in memory order: bit 0 is the least significant bit
of the first byte, and every bit from `nbits` on is 0, up to the longest instruction (30_encoding.md R91). -/
def tableBytes (nbits w : Nat) : List Byte :=
  (List.range 5).map fun i => BitVec.ofNat 8 (w % 2 ^ nbits / 2 ^ (8 * i))

/-- The instruction the decoder reads, under TEST_ROM, from the bits `w` of an opcode-table row. -/
def decodeTableWord (nbits w : Nat) : Option Instr :=
  match decode testRom (tableBytes nbits w) with
  | .ok (i, _) => some i
  | .error _ => none

end Sys2Proof
end

