-- ==== Sys2Proof/Machine/Params.lean ====
section
/-! DEFINITION. The fixed constants of spec/00_scope.md R6 and the reference instance P0 of its OPEN parameters. -/

namespace Sys2Proof

/-- VEC_RESET (00_scope.md R6, 70_reset_and_hazards.md R322). -/
def vecReset : Long := 0x00FFFFF0

/-- WAIT_CYCLES: what a skipped step is charged (00_scope.md R6, 42_engine.md R174). -/
def waitCycles : Nat := 1

/-- The reference instance P0 (00_scope.md R6, 95_test_vectors.md), with TEST_ROM and no OTHER handler. -/
def configP0 : Config :=
  { pcBits := .b32
    memLimit := 0x01000000
    rom := testRom
    vecBrk := 0x00FFFFE4
    vecCop := 0x00FFFFE0
    vecAbort := 0x00FFFFE8
    vecNmi := 0x00FFFFEC
    vecIrq := 0x00FFFFF4
    spReset := 0x00010000
    irqLevel := 1
    intCycles := 8
    others := [] }

end Sys2Proof
end

