-- ==== Sys2Proof/Machine/State.lean ====
section
/-! DEFINITION. The state of the core (spec/10_state.md), of the bus's memory (20_memory.md) and of the debugger
(44_debugger.md R46-R50 in 10_state.md), as plain data, and the state right after reset. -/

namespace Sys2Proof.Machine

/-- The status register as its twelve fields (10_state.md R30, R31). Bits 11 and 7:5 have no storage (R32). -/
structure SR where
  t1 : Bool
  t0 : Bool
  s : Bool
  m : Bool
  i : BitVec 3
  x : Bool
  n : Bool
  z : Bool
  v : Bool
  c : Bool
  deriving DecidableEq, Repr, Inhabited

/-- CpuPins (10_state.md R36). `vectorPull` is the core's output, the others are inputs. -/
structure Pins where
  irq : Bool
  nmi : Bool
  abort : Bool
  reset : Bool
  ready : Bool
  vectorPull : Bool
  deriving DecidableEq, Repr, Inhabited

/-- cpuState (10_state.md R40). -/
inductive CpuState where
  | ready
  | waiting
  | halted
  deriving DecidableEq, Repr, Inhabited

/-- lastDecoded (10_state.md R43). -/
structure LastDecoded where
  address : Long
  opcode : Byte
  mnemonic : String
  deriving DecidableEq, Repr, Inhabited

/-- The engine errors (60_exceptions.md R301-R303). -/
inductive ErrorCode where
  | unimplementedOpcode
  | outOfRangeProgramCounter
  | invalidOperandWidth
  deriving DecidableEq, Repr, Inhabited

/-- lastError (10_state.md R44): a field is absent where the rule says so. -/
structure ErrorRecord where
  code : ErrorCode
  instrAddr : Option Long
  faultAddr : Option Long
  opcode : Option Byte
  deriving DecidableEq, Repr, Inhabited

/-- Why free-run paused (10_state.md R50). -/
inductive HitReason where
  | breakpoint
  | stepOver
  | brkOpcode
  | interrupt
  deriving DecidableEq, Repr, Inhabited

/-- A subset of IRQ, NMI, ABORT, RESET (10_state.md R48). -/
structure PinSet where
  irq : Bool
  nmi : Bool
  abort : Bool
  reset : Bool
  deriving DecidableEq, Repr, Inhabited

/-- A DebugLine (44_debugger.md R262). -/
structure DebugLine where
  address : Long
  bytes : List Byte
  length : Nat
  mnemonic : String
  text : String
  stepOver : Bool
  implemented : Bool
  stale : Bool
  deriving DecidableEq, Repr, Inhabited

/-- One bus access of the core: what it was, where, how many bytes, which value, and the level of VECTOR_PULL
during it (20_memory.md R63, R67-R69). -/
structure BusAccess where
  isWrite : Bool
  addr : Long
  bytes : Nat
  value : Long
  vectorPull : Bool
  deriving DecidableEq, Repr, Inhabited

/-- The pins a device drives (10_state.md R36). -/
inductive DevicePin where
  | irq
  | nmi
  | abort
  | reset
  | ready
  deriving DecidableEq, Repr, Inhabited

/-- The host's commands (42_engine.md R188, 44_debugger.md). The argument of ExecuteCycles has the 64 bits of the cycle
counter it is compared with: R184 states no width for it (DESIGN CHOICE, log 33). -/
inductive HostCommand where
  | executeNext
  | executeCycles (n : BitVec 64)
  | resetCycles
  | preFetch
  | decode (a : Long)
  | reset
  | halt
  | jumpShort (a : Half)
  | jumpLong (a : Long)
  | jumpVector (a : Long)
  | snapshot
  | writeByte (a : Long) (v : Byte)
  | step
  | stepOver
  | run
  | pause
  | addBreakpoint (a : Long) (label : String)
  | removeBreakpoint (a : Long)
  | setInterruptWatch (on : Bool) (cats : PinSet)
  | getLine (a : Long)
  | revalidate
  | invalidateLines (lo hi : Long)
  | clearLines
  deriving DecidableEq, Repr, Inhabited

/-- A move of one of the agents of 44_debugger.md R266. -/
inductive Move where
  | engine
  | device (p : DevicePin) (level : Bool)
  | host (c : HostCommand)
  deriving DecidableEq, Repr, Inhabited

/-- The record Snapshot() returns (42_engine.md R186). -/
structure Snapshot where
  d : Vector Long 8
  a : Vector Long 7
  a7 : Long
  usp : Long
  ssp : Long
  sr : Half
  pc : Long
  cpuState : CpuState
  pauseFlag : Bool
  cycles : BitVec 64
  deriving DecidableEq, Repr, Inhabited

/-- What the host gets back from a command (42_engine.md R188). `status` is the boolean of the last ExecuteNext
(R176), which the debugger uses as a status. -/
inductive Reply where
  | status (b : Bool)
  | decoded (r : Option DecodeRecord)
  | snapshot (r : Snapshot)
  | line (l : Option DebugLine)
  deriving DecidableEq, Repr, Inhabited

/-- The state of the machine. The first group is the core's, the second the debugger's, `mem` is the memory behind
the bus; `cfg` is the configuration, which no step writes. The last group is the model's own: whether a first
Reset has happened (10_state.md R56), the boolean the last ExecuteNext returned (42_engine.md R176), what the host
gets back from its last command, the bus accesses of the last move (20_memory.md R63), and the moves of host and
devices still to come (44_debugger.md R266). -/
structure State where
  cfg : Config
  d : Vector Long 8
  a : Vector Long 7
  usp : Long
  ssp : Long
  sr : SR
  pc : Long
  pins : Pins
  cpuState : CpuState
  pauseFlag : Bool
  cycles : BitVec 64
  lastDecoded : Option LastDecoded
  lastError : Option ErrorRecord
  breakpoints : List (Long × String)
  ephemeral : Option Long
  watchInterrupts : Bool
  watchedCats : PinSet
  lineCache : List DebugLine
  lastHit : Option (HitReason × Long)
  mem : List Host.Cell
  resetDone : Bool
  stepResult : Bool
  reply : Option Reply
  bus : List BusAccess
  schedule : List Move
  deriving DecidableEq, Repr

/-- The core has no fault that stops the machine: its interrupts, traps and engine errors (60_exceptions.md) are
next states, and no address is outside the space (20_memory.md R60, R66, R71). So this type has no constructor,
and no step answers a fault (log 30). -/
inductive Fault where
  deriving DecidableEq, Repr

/-- Why a step has no next state. Each is safe: the model stops where the spec gives it no move. -/
inductive Refusal where
  /-- Raised by an arm of exec for an instruction that has no meaning yet. No arm raises it. Safe. -/
  | notModelled (mnemonic : String)
  /-- Raised by an ExecuteNext before the first Reset, whoever asks for it: the engine's move, or the host's ExecuteNext,
  Step, or StepOver where that is a Step (10_state.md R56, 93 U1). Safe: the spec refuses a step there too. -/
  | beforeFirstReset
  /-- Raised by a host command that is issued only while paused, in free-run (42_engine.md R188, 70 R333, 93 U9).
  Safe: the spec gives it no move. -/
  | hostAccessWhileRunning
  /-- Raised by an opcode of kind OTHER for which the configuration has no handler (43_handlers.md R215, 93 U7).
  Safe: the spec refuses the step too. -/
  | otherUndefined (opcode : Byte)
  /-- Raised by every step of a machine whose configuration fails its check at construction: an ill-formed ROM, by
  check and opcode, or a parameter outside its range (30_encoding.md R100, 00_scope.md R6, 93 U8; log 15). Safe: the
  spec refuses such a configuration. -/
  | configRefused (f : ConfigFailure)
  /-- Raised by an instruction term whose descriptor fails a check of 30_encoding.md R100, by check and opcode; under a
  configuration that passes its check no step raises it. Safe: the spec refuses such a row. -/
  | rowIllFormed (c : WfCheck) (opcode : Byte)
  deriving DecidableEq, Repr

/-- What a byte of memory that nothing has written reads as (log 2). -/
def unlistedByte : Byte := 0

/-- The memory form: addresses strictly rising from `lo`, each below 2^32, and no entry equal to what an unlisted
address reads as. -/
def memWfFrom : Nat → List Host.Cell → Bool
  | _, [] => true
  | lo, (a, v) :: rest => decide (lo ≤ a) && decide (a < 2 ^ 32) && v != unlistedByte && memWfFrom (a + 1) rest

/-- The canonical form of a memory. -/
def Memory.wf (m : List Host.Cell) : Bool := memWfFrom 0 m

/-- The status register with every field 0 (40_flags.md R125). -/
def SR.zero : SR :=
  { t1 := false, t0 := false, s := false, m := false, i := 0, x := false, n := false, z := false, v := false
    c := false }

/-- The machine right after reset (10_state.md R55), under the reference instance P0, with a memory that lists
nothing. The values Reset leaves unchanged are those the debugger starts with (R56) and idle pins (log 9). The pc
is the reset vector's content, which is 0 in that memory; the one bus access is the vector read. `stepResult` is false:
no ExecuteNext has returned yet, and the spec gives no status for that case (DESIGN CHOICE, log 7). -/
def State.reset : State :=
  { cfg := configP0
    d := Vector.replicate 8 0
    a := Vector.replicate 7 0
    usp := configP0.spReset
    ssp := configP0.spReset
    sr := SR.zero
    pc := 0
    pins := { irq := false, nmi := false, abort := false, reset := false, ready := true, vectorPull := false }
    cpuState := .ready
    pauseFlag := true
    cycles := 0
    lastDecoded := none
    lastError := none
    breakpoints := []
    ephemeral := none
    watchInterrupts := false
    watchedCats := { irq := false, nmi := false, abort := false, reset := false }
    lineCache := []
    lastHit := none
    mem := []
    resetDone := true
    stepResult := false
    reply := none
    bus := [{ isWrite := false, addr := vecReset, bytes := 4, value := 0, vectorPull := true }]
    schedule := [] }

end Sys2Proof.Machine
end

