-- ==== Sys2Proof/Machine/Flags.lean ====
section
/-! DEFINITION. The ConditionFlags operations (spec/40_flags.md R120-R126) on the status register's fields. -/

namespace Sys2Proof.Machine

/-- A flag as a word's bit. -/
def flagBit (b : Bool) (k : Nat) : Half := if b then BitVec.ofNat 16 (2 ^ k) else 0

/-- Pack() (40_flags.md R123): bits 11 and 7:5 are 0. -/
def SR.pack (r : SR) : Half :=
  flagBit r.t1 15 ||| flagBit r.t0 14 ||| flagBit r.s 13 ||| flagBit r.m 12 ||| (r.i.setWidth 16 <<< 8) |||
    flagBit r.x 4 ||| flagBit r.n 3 ||| flagBit r.z 2 ||| flagBit r.v 1 ||| flagBit r.c 0

/-- Unpack(x) (40_flags.md R124): bits 11 and 7:5 of `w` are dropped. -/
def SR.unpack (w : Half) : SR :=
  { t1 := w.getLsbD 15, t0 := w.getLsbD 14, s := w.getLsbD 13, m := w.getLsbD 12, i := (w >>> 8).setWidth 3
    x := w.getLsbD 4, n := w.getLsbD 3, z := w.getLsbD 2, v := w.getLsbD 1, c := w.getLsbD 0 }

/-- SetZ(v) (40_flags.md R120): Z from all 32 bits. -/
def SR.setZ (r : SR) (v : Long) : SR := { r with z := v == 0 }

/-- SetNZ(v, w) (40_flags.md R121, R122): Z and N from v mod 2^(8w), N from bit 8w-1; InvalidOperandWidth(w) when
w is not 1, 2 or 4. -/
def SR.setNZ (r : SR) (v : Long) (w : Nat) : Except Nat SR :=
  if validCount w then .ok { r with z := lowBytes w v == 0, n := v.getLsbD (8 * w - 1) } else .error w

end Sys2Proof.Machine
end

