-- ==== Sys2Proof/Machine/Ops.lean ====
section
/-! DEFINITION. The named operations over memory, bus, registers and pc; trap entry and return; reset; the error
effect (spec/20_memory.md, 10_state.md, 40_flags.md R130-R131, 42_engine.md R180-R182, 60_exceptions.md R290, R300,
70_reset_and_hazards.md R320). -/

namespace Sys2Proof.Machine

/-! ### Memory -/

/-- The byte a memory holds at an address: its entry, or what an unlisted address reads as. -/
def memByte : List Host.Cell → Nat → Byte
  | [], _ => unlistedByte
  | (k, v) :: rest, a => if a = k then v else memByte rest a

/-- Write one byte, keeping the canonical form: writing what an unlisted address reads as removes the entry. -/
def memPut : List Host.Cell → Nat → Byte → List Host.Cell
  | [], a, v => if v = unlistedByte then [] else [(a, v)]
  | (k, u) :: rest, a, v =>
    if a < k then (if v = unlistedByte then (k, u) :: rest else (a, v) :: (k, u) :: rest)
    else if a = k then (if v = unlistedByte then rest else (a, v) :: rest)
    else (k, u) :: memPut rest a v

/-- ReadByte(a) (20_memory.md R60). -/
def State.readByte (s : State) (a : Long) : Byte := memByte s.mem a.toNat

/-- The value of `n` bytes at `a`, big-endian, each address mod 2^32 (20_memory.md R61). -/
def State.peek (s : State) (a : Long) : Nat → Long
  | 0 => 0
  | n + 1 => (s.peek a n <<< 8) ||| (s.readByte (a + BitVec.ofNat 32 n)).setWidth 32

/-- A memory after the low `n` bytes of `v` are written at `a`, big-endian (20_memory.md R62). -/
def memPutBE (m : List Host.Cell) (a : Long) : Nat → Long → List Host.Cell
  | 0, _ => m
  | n + 1, v => memPut (memPutBE m a n (v >>> 8)) (a + BitVec.ofNat 32 n).toNat (v.setWidth 8)

/-! ### Bus accesses -/

/-- The state after a read of `n` bytes at `a`: memory is unchanged, the access is recorded with the level
VECTOR_PULL has (20_memory.md R63, R69). -/
def State.didRead (s : State) (a : Long) (n : Nat) : State :=
  { s with
    bus := s.bus ++
      [{ isWrite := false, addr := a, bytes := n, value := s.peek a n, vectorPull := s.pins.vectorPull }] }

/-- MemWrite(a, n, v): one access (20_memory.md R62, R68). -/
def State.memWrite (s : State) (a : Long) (n : Nat) (v : Long) : State :=
  { s with
    mem := memPutBE s.mem a n v
    bus := s.bus ++
      [{ isWrite := true, addr := a, bytes := n, value := lowBytes n v, vectorPull := s.pins.vectorPull }] }

/-- Drive the VECTOR_PULL output. -/
def State.driveVectorPull (s : State) (b : Bool) : State := { s with pins := { s.pins with vectorPull := b } }

/-- The state after VecRead(a): the 4-byte read with VECTOR_PULL asserted around it (20_memory.md R63). The value
read is `s.peek a 4`. -/
def State.didVecRead (s : State) (a : Long) : State := ((s.driveVectorPull true).didRead a 4).driveVectorPull false

/-! ### Program counter -/

/-- t mod 2^PC_BITS (10_state.md R25). -/
def truncPc (c : Config) (t : Long) : Long :=
  match c.pcBits with
  | .b24 => t &&& 0x00FFFFFF
  | .b32 => t

/-- `pc <- t` (00_scope.md R9). -/
def State.setPc (s : State) (t : Long) : State := { s with pc := truncPc s.cfg t }

/-- JumpShort(a) (42_engine.md R180). -/
def State.jumpShort (s : State) (a : Half) : State := s.setPc (a.signExtend 32)

/-- JumpLong(a) (42_engine.md R181). -/
def State.jumpLong (s : State) (a : Long) : State := s.setPc a

/-- JumpVector(a) (42_engine.md R182). -/
def State.jumpVector (s : State) (a : Long) : State := (s.didVecRead a).setPc (s.peek a 4)

/-! ### Registers -/

/-- `x[r]` at the declared width, zero-extended to 32 bits (10_state.md R21). A7 is the active stack pointer
(R23); SR is read as its packed word. -/
def State.reg (s : State) : Reg → Long
  | .d i => s.d[i]
  | .a i => s.a[i]
  | .a7 => if s.sr.s then s.ssp else s.usp
  | .usp => s.usp
  | .ssp => s.ssp
  | .sr => s.sr.pack.setWidth 32

/-- `x[r] <- v` mod 2^REG_WIDTH(r) (10_state.md R21). A word written to SR goes through Unpack (R32). -/
def State.setReg (s : State) (r : Reg) (v : Long) : State :=
  match r with
  | .d i => { s with d := s.d.set i v }
  | .a i => { s with a := s.a.set i v }
  | .a7 => if s.sr.s then { s with ssp := v } else { s with usp := v }
  | .usp => { s with usp := v }
  | .ssp => { s with ssp := v }
  | .sr => { s with sr := SR.unpack (v.setWidth 16) }

/-- `old` with its low `n` bytes replaced by those of `v` (40_flags.md R131). -/
def patchLow (n : Nat) (old v : Long) : Long :=
  (old &&& ~~~(BitVec.ofNat 32 (2 ^ (8 * n) - 1))) ||| lowBytes n v

/-- xr(r, n) (40_flags.md R130): the low `n` bytes, or InvalidOperandWidth(n). -/
def State.xr (s : State) (r : Reg) (n : Nat) : Except Nat Long :=
  if r.badWidth n then .error n else .ok (lowBytes n (s.reg r))

/-- xw(r, n, v) (40_flags.md R131): the low `n` bytes replaced, or InvalidOperandWidth(n). -/
def State.xw (s : State) (r : Reg) (n : Nat) (v : Long) : Except Nat State :=
  if r.badWidth n then .error n else .ok (s.setReg r (patchLow n (s.reg r) v))

/-- SetZ on the machine (40_flags.md R120). -/
def State.setZ (s : State) (v : Long) : State := { s with sr := s.sr.setZ v }

/-- SetNZ on the machine (40_flags.md R121). -/
def State.setNZ (s : State) (v : Long) (w : Nat) : Except Nat State :=
  match s.sr.setNZ v w with
  | .ok r => .ok { s with sr := r }
  | .error n => .error n

/-! ### Taking a trap or interrupt, and returning from one -/

/-- VEC[t] (60_exceptions.md R292). -/
def vectorOf (c : Config) : Trap → Long
  | .brk => c.vecBrk
  | .cop => c.vecCop
  | .abort => c.vecAbort
  | .nmi => c.vecNmi
  | .irq => c.vecIrq

/-- The interrupt mask an entry leaves (60_exceptions.md R290). -/
def entryMask (c : Config) (t : Trap) (old : BitVec 3) : BitVec 3 :=
  match t with
  | .irq => c.irqLevel
  | .nmi => 7
  | .brk | .cop | .abort => old

/-- The status register an entry leaves: S set, trace cleared, the mask of the trap (60_exceptions.md R290). -/
def entrySr (c : Config) (t : Trap) (r : SR) : SR :=
  { r with s := true, t1 := false, t0 := false, i := entryMask c t r.i }

/-- An entry leaves Waiting (60_exceptions.md R290). -/
def CpuState.awake : CpuState → CpuState
  | .waiting => .ready
  | .ready => .ready
  | .halted => .halted

/-- `enter(t)` (60_exceptions.md R290): the pc is pushed on SSP, the status register set for supervisor state, a
Waiting processor made Ready, and the pc read from the vector. -/
def State.enter (s : State) (t : Trap) : State :=
  let sp := s.ssp - 4
  let pushed := { s with ssp := sp }.memWrite sp 4 s.pc
  { pushed with sr := entrySr s.cfg t s.sr, cpuState := s.cpuState.awake }.jumpVector (vectorOf s.cfg t)

/-- The return from an interrupt or a call (43_handlers.md R207, R212; 60_exceptions.md R294): 4 bytes popped from
the active stack into the pc, and no SR field restored. -/
def State.popPc (s : State) : State :=
  let sp := s.reg .a7
  ((s.didRead sp 4).setReg .a7 (sp + 4)).jumpLong (s.peek sp 4)

/-! ### Reset -/

/-- Reset() (70_reset_and_hazards.md R320). Memory, pauseFlag, breakpoints, the interrupt watch, the line cache and
the other pins are unchanged. -/
def State.performReset (s : State) : State :=
  { (s.jumpVector vecReset) with
    d := Vector.replicate 8 0
    a := Vector.replicate 7 0
    sr := SR.zero
    usp := s.cfg.spReset
    ssp := s.cfg.spReset
    cpuState := .ready
    cycles := 0
    lastDecoded := none
    lastError := none
    ephemeral := none
    lastHit := none
    pins := { s.pins with reset := false, vectorPull := false }
    resetDone := true }

/-- The machine before its first Reset, with a given configuration and memory. Every register, SR, the pc, cpuState and
cycles hold free values (10_state.md R56: unspecified, and a model must not pick them; log 8); the debugger is empty,
paused and watches no interrupt (R56), and the pins are idle (log 9). -/
def State.powerOn (cfg : Config) (mem : List Host.Cell) : State :=
  let word := Config.powerOnWord
  { State.reset with
    cfg := cfg
    d := Vector.ofFn fun i => word i.val
    a := Vector.ofFn fun i => word (8 + i.val)
    usp := word 15
    ssp := word 16
    sr := SR.unpack ((word 17).setWidth 16)
    pc := truncPc cfg (word 18)
    cpuState := if word 19 = 0 then .ready else if word 19 = 1 then .waiting else .halted
    cycles := word 20 ++ word 21
    mem := mem
    resetDone := false
    bus := [] }

/-! ### Errors and the end of an instruction -/

/-- Whether an error is fatal, that is, whether it halts (60_exceptions.md R300). -/
def ErrorCode.fatal : ErrorCode → Bool
  | .unimplementedOpcode => true
  | .invalidOperandWidth => true
  | .outOfRangeProgramCounter => false

/-- The number of an error code (60_exceptions.md R301-R303). -/
def ErrorCode.number : ErrorCode → Nat
  | .unimplementedOpcode => 1
  | .outOfRangeProgramCounter => 2
  | .invalidOperandWidth => 3

/-- The effect of an error (60_exceptions.md R300) on the state `s` of the step's start (with lastDecoded as decode
left it, 42_engine.md R175). `bus` is what the step had done on the bus by then. ExecuteNext returns false. -/
def State.raiseError (s : State) (bus : List BusAccess) (e : ErrorRecord) : State :=
  { s with
    bus := bus
    lastError := some e
    pauseFlag := true
    ephemeral := none
    cpuState := if e.code.fatal then .halted else s.cpuState
    stepResult := false }

/-- What a handler answers: the state its writes leave, InvalidOperandWidth(n) raised at a state, or a refusal of
a configuration. -/
inductive HandlerResult where
  | done (s : State)
  | raised (n : Nat) (s : State)
  | refused (r : Refusal)
  deriving DecidableEq, Repr

/-- Charge cycles, mod 2^64 (42_engine.md R174). -/
def State.charge (s : State) (n : Nat) : State := { s with cycles := s.cycles + BitVec.ofNat 64 n }

/-- Run an instruction's handler as one transaction (42_engine.md R170, R173-R175). `s` is the state of the step's
start with the instruction decoded: the pc is the instruction's address. The pc advances first; on success the
cycles are charged and the step returns true; on an error the start state comes back with the error recorded. -/
def runHandler (d : Descriptor) (handler : State → HandlerResult) (s : State) : Host.Outcome State Fault Refusal :=
  match handler (s.setPc (s.pc + BitVec.ofNat 32 d.length)) with
  | .done t => .next { t.charge d.cycles with stepResult := true }
  | .raised _ t =>
    .next (s.raiseError t.bus
      { code := .invalidOperandWidth, instrAddr := some s.pc, faultAddr := none, opcode := some d.opcode })
  | .refused r => .refused r

end Sys2Proof.Machine
end

