-- ==== Sys2Proof/Machine/Operands.lean ====
section
/-! DEFINITION. The addressing-mode resolver and operand access (spec/41_addressing.md R140-R158). -/

namespace Sys2Proof.Machine

/-- What the resolver answers as the operand (41_addressing.md R140). -/
inductive Operand where
  | reg (r : Reg)
  | mem (ea : Long)
  | imm (v : Long)
  | noOperand
  deriving DecidableEq, Repr, Inhabited

/-- A pending register update `An <- value` (41_addressing.md R140). -/
structure Pending where
  reg : AddrReg
  value : Long
  deriving DecidableEq, Repr, Inhabited

/-- The index of an indexed mode (41_addressing.md R150): the low word sign-extended, or the full register. -/
def State.index (s : State) (x : IndexReg) (xs : IndexSize) : Long :=
  match xs with
  | .w => ((s.reg x.toReg).setWidth 16).signExtend 32
  | .l => s.reg x.toReg

/-- d8 of a field, sign-extended to 32 bits (30_encoding.md R99). -/
def disp8Of (field : Long) : Long := (field.setWidth 8).signExtend 32

/-- d16 or a16 of a field, sign-extended to 32 bits (30_encoding.md R99). -/
def disp16Of (field : Long) : Long := (field.setWidth 16).signExtend 32

/-- The operand `resolve` answers (41_addressing.md R143-R155). It reads registers, the signature and the pc the
handler sees, and performs no bus access. -/
def State.operand (s : State) (d : Descriptor) (sig : Long) : Operand :=
  match d.mode with
  | .none => .noOperand
  | .regDirect r => .reg r
  | .indirect r => .mem (s.reg r.toReg)
  | .postInc r => .mem (s.reg r.toReg)
  | .preDec r => .mem (s.reg r.toReg - BitVec.ofNat 32 d.w)
  | .disp8 r => .mem (s.reg r.toReg + disp8Of (d.field sig))
  | .disp16 r => .mem (s.reg r.toReg + disp16Of (d.field sig))
  | .indexed r x xs => .mem (s.reg r.toReg + disp8Of (d.field sig) + s.index x xs)
  | .pcDisp16 => .mem (s.pc + disp16Of (d.field sig))
  | .pcIndexed x xs => .mem (s.pc + disp8Of (d.field sig) + s.index x xs)
  | .absShort => .mem (disp16Of (d.field sig))
  | .absLong => .mem (d.field sig)
  | .immediate => .imm (d.field sig)

/-- The pending update `resolve` answers (41_addressing.md R140, R146, R147): the step is the operand width w of
the descriptor (R142). -/
def State.pending (s : State) (d : Descriptor) : Option Pending :=
  match d.mode with
  | .postInc r => some { reg := r, value := s.reg r.toReg + BitVec.ofNat 32 d.w }
  | .preDec r => some { reg := r, value := s.reg r.toReg - BitVec.ofNat 32 d.w }
  | .none | .regDirect _ | .indirect _ | .disp8 _ | .disp16 _ | .indexed _ _ _ | .pcDisp16 | .pcIndexed _ _
  | .absShort | .absLong | .immediate => none

/-- Apply a pending update, the first register write of the commit (41_addressing.md R158). -/
def State.applyPending (s : State) (u : Option Pending) : State :=
  match u with
  | some p => s.setReg p.reg.toReg p.value
  | none => s

/-- xw(r, n, v) of a handler that leaves update `u` pending (41_addressing.md R158): the handler sees the register as
it is before the update, and its write is applied after it. -/
def State.xwCommit (s : State) (u : Option Pending) (r : Reg) (n : Nat) (v : Long) : Except Nat State :=
  if r.badWidth n then .error n else .ok ((s.applyPending u).setReg r (patchLow n (s.reg r) v))

/-- readOp(op, w) (41_addressing.md R156): the value and the state after the access. An absent operand
has no value, and no handler of a well-formed row reads one (WF5): the last case is not reached. -/
def State.readOp (s : State) (op : Operand) (w : Nat) : Except Nat (Long × State) :=
  match op with
  | .reg r =>
    match s.xr r w with
    | .ok v => .ok (v, s)
    | .error n => .error n
  | .mem ea => if validCount w then .ok (s.peek ea w, s.didRead ea w) else .error w
  | .imm v => .ok (lowBytes w v, s)
  | .noOperand => .error w

/-- writeOp(op, w, v) (41_addressing.md R157). The last two cases cannot occur (WF5, WF6). -/
def State.writeOp (s : State) (op : Operand) (w : Nat) (v : Long) : Except Nat State :=
  match op with
  | .reg r => s.xw r w v
  | .mem ea => if validCount w then .ok (s.memWrite ea w v) else .error w
  | .imm _ => .error w
  | .noOperand => .error w

/-- writeOp of a STORE (43_handlers.md R214). Whether a destination RegDirect(SR) is written is OPEN between R214 and
10_state.md R33 (log 21): where it is not, SR stays as it is. A width it does not have is an error either way. -/
def State.storeOp (s : State) (op : Operand) (w : Nat) (v : Long) : Except Nat State :=
  match s.writeOp op w v with
  | .ok t => .ok (if op = .reg .sr ∧ Config.storeWritesSr = false then s else t)
  | .error n => .error n

end Sys2Proof.Machine
end

