-- ==== Sys2Proof/Machine/Jumps.lean ====
section
/-! DEFINITION. JMPS, JMPL, JMPV, CALL and RET (spec/43_handlers.md R208-R212). -/

namespace Sys2Proof.Machine

/-- JMPS (43_handlers.md R208): a16 is the mode's field. -/
def handleJmps (d : Descriptor) (sig : Long) (s : State) : HandlerResult :=
  .done (s.jumpShort ((d.field sig).setWidth 16))

/-- JMPL (43_handlers.md R209): a32 is the mode's field. -/
def handleJmpl (d : Descriptor) (sig : Long) (s : State) : HandlerResult := .done (s.jumpLong (d.field sig))

/-- JMPV (43_handlers.md R210). -/
def handleJmpv (d : Descriptor) (sig : Long) (s : State) : HandlerResult := .done (s.jumpVector (d.field sig))

/-- CALL (43_handlers.md R211): the pc, already the next instruction's address, is pushed on the active stack. -/
def handleCall (d : Descriptor) (sig : Long) (s : State) : HandlerResult :=
  let sp := s.reg .a7 - 4
  .done (((s.memWrite sp 4 s.pc).setReg .a7 sp).jumpLong (d.field sig))

/-- RET (43_handlers.md R212). -/
def handleRet (s : State) : HandlerResult := .done s.popPc

/-- 0x04 JMPS $a16.W. -/
def execJmps (a16 : Half) (s : State) : Host.Outcome State Fault Refusal :=
  runHandler rowJmps (handleJmps rowJmps (a16.setWidth 32)) s

/-- 0x05 JMPL $a32.L. -/
def execJmpl (a32 : Long) (s : State) : Host.Outcome State Fault Refusal :=
  runHandler rowJmpl (handleJmpl rowJmpl a32) s

/-- 0x06 JMPV ($a32.L). -/
def execJmpv (a32 : Long) (s : State) : Host.Outcome State Fault Refusal :=
  runHandler rowJmpv (handleJmpv rowJmpv a32) s

/-- 0x07 CALL $a32.L. -/
def execCall (a32 : Long) (s : State) : Host.Outcome State Fault Refusal :=
  runHandler rowCall (handleCall rowCall a32) s

/-- 0x08 RET. -/
def execRet (s : State) : Host.Outcome State Fault Refusal := runHandler rowRet handleRet s

end Sys2Proof.Machine
end

