-- ==== Sys2Proof/Machine/Moves.lean ====
section
/-! DEFINITION. LOAD and STORE (spec/43_handlers.md R213, R214). -/

namespace Sys2Proof.Machine

/-- SetNZ(v, w) unless the register is SR (43_handlers.md R213, R214; 92 D49). -/
def State.setNZUnlessSr (s : State) (r : Reg) (v : Long) (w : Nat) : Except Nat State :=
  if r = .sr then .ok s else s.setNZ v w

/-- LOAD into the action register `r` (43_handlers.md R213). The pending update is committed before the handler's
write, so that the write wins, and the write's kept bytes are those from before the update (41_addressing.md R158,
R160). -/
def loadInto (r : Reg) (d : Descriptor) (sig : Long) (s : State) : HandlerResult :=
  match s.readOp (s.operand d sig) d.w with
  | .error n => .raised n s
  | .ok (v, t) =>
    match t.xwCommit (s.pending d) r d.w v with
    | .error n => .raised n t
    | .ok u =>
      match u.setNZUnlessSr r v d.w with
      | .error n => .raised n t
      | .ok x => .done x

/-- LOAD (43_handlers.md R213). A row without an action register fails WF5 and is refused by name. -/
def handleLoad (d : Descriptor) (sig : Long) (s : State) : HandlerResult :=
  match d.actionReg with
  | some r => loadInto r d sig s
  | none => .refused (.rowIllFormed .wf5Operands d.opcode)

/-- STORE from the action register `r` (43_handlers.md R214). The source is read before the update is committed
and before any write. Whether a destination RegDirect(SR) is written is open (log 21). -/
def storeFrom (r : Reg) (d : Descriptor) (sig : Long) (s : State) : HandlerResult :=
  match s.xr r d.w with
  | .error n => .raised n s
  | .ok v =>
    match (s.applyPending (s.pending d)).storeOp (s.operand d sig) d.w v with
    | .error n => .raised n s
    | .ok t =>
      match t.setNZUnlessSr r v d.w with
      | .error n => .raised n s
      | .ok u => .done u

/-- STORE (43_handlers.md R214). A row without an action register fails WF5 and is refused by name. -/
def handleStore (d : Descriptor) (sig : Long) (s : State) : HandlerResult :=
  match d.actionReg with
  | some r => storeFrom r d sig s
  | none => .refused (.rowIllFormed .wf5Operands d.opcode)

/-- 0x10 LOAD.L #imm,D0. -/
def execLoadLImmD0 (imm32 : Long) (s : State) : Host.Outcome State Fault Refusal :=
  runHandler rowLoadLImmD0 (handleLoad rowLoadLImmD0 imm32) s

/-- 0x11 LOAD.B #imm,D1. -/
def execLoadBImmD1 (imm8 : Byte) (s : State) : Host.Outcome State Fault Refusal :=
  runHandler rowLoadBImmD1 (handleLoad rowLoadBImmD1 (imm8.setWidth 32)) s

/-- 0x12 LOAD.W (A0)+,D0. -/
def execLoadWPostIncA0D0 (s : State) : Host.Outcome State Fault Refusal :=
  runHandler rowLoadWPostIncA0D0 (handleLoad rowLoadWPostIncA0D0 0) s

/-- 0x13 STORE.L D0,-(A1). -/
def execStoreLD0PreDecA1 (s : State) : Host.Outcome State Fault Refusal :=
  runHandler rowStoreLD0PreDecA1 (handleStore rowStoreLD0PreDecA1 0) s

/-- 0x14 LOAD.L #imm,A0. -/
def execLoadLImmA0 (imm32 : Long) (s : State) : Host.Outcome State Fault Refusal :=
  runHandler rowLoadLImmA0 (handleLoad rowLoadLImmA0 imm32) s

/-- 0x15 LOAD.L #imm,A1. -/
def execLoadLImmA1 (imm32 : Long) (s : State) : Host.Outcome State Fault Refusal :=
  runHandler rowLoadLImmA1 (handleLoad rowLoadLImmA1 imm32) s

/-- 0x16 STORE.W D0,d16(A0). -/
def execStoreWD0Disp16A0 (d16 : Half) (s : State) : Host.Outcome State Fault Refusal :=
  runHandler rowStoreWD0Disp16A0 (handleStore rowStoreWD0Disp16A0 (d16.setWidth 32)) s

/-- 0x17 LOAD.L $a32.L,D2. -/
def execLoadLAbsLongD2 (a32 : Long) (s : State) : Host.Outcome State Fault Refusal :=
  runHandler rowLoadLAbsLongD2 (handleLoad rowLoadLAbsLongD2 a32) s

/-- 0x18 STORE.B D0,$a16.W. -/
def execStoreBD0AbsShort (a16 : Half) (s : State) : Host.Outcome State Fault Refusal :=
  runHandler rowStoreBD0AbsShort (handleStore rowStoreBD0AbsShort (a16.setWidth 32)) s

/-- 0x19 LOAD.L d8(A0,D1.W),D3. -/
def execLoadLIndexedA0D1D3 (d8 : Byte) (s : State) : Host.Outcome State Fault Refusal :=
  runHandler rowLoadLIndexedA0D1D3 (handleLoad rowLoadLIndexedA0D1D3 (d8.setWidth 32)) s

/-- 0x1A LOAD.W d16(PC),D4. -/
def execLoadWPcDisp16D4 (d16 : Half) (s : State) : Host.Outcome State Fault Refusal :=
  runHandler rowLoadWPcDisp16D4 (handleLoad rowLoadWPcDisp16D4 (d16.setWidth 32)) s

/-- 0x1B LOAD.B (A0),D5. -/
def execLoadBIndirectA0D5 (s : State) : Host.Outcome State Fault Refusal :=
  runHandler rowLoadBIndirectA0D5 (handleLoad rowLoadBIndirectA0D5 0) s

/-- 0x1C LOAD.L D0,D6. -/
def execLoadLD0D6 (s : State) : Host.Outcome State Fault Refusal :=
  runHandler rowLoadLD0D6 (handleLoad rowLoadLD0D6 0) s

/-- 0x1D LOAD.W d8(A0),D7. -/
def execLoadWDisp8A0D7 (d8 : Byte) (s : State) : Host.Outcome State Fault Refusal :=
  runHandler rowLoadWDisp8A0D7 (handleLoad rowLoadWDisp8A0D7 (d8.setWidth 32)) s

/-- 0x1E LOAD.L d8(PC,D1.L),D2. -/
def execLoadLPcIndexedD1D2 (d8 : Byte) (s : State) : Host.Outcome State Fault Refusal :=
  runHandler rowLoadLPcIndexedD1D2 (handleLoad rowLoadLPcIndexedD1D2 (d8.setWidth 32)) s

/-- 0x30 LOAD.W #imm,SR. -/
def execLoadWImmSr (imm16 : Half) (s : State) : Host.Outcome State Fault Refusal :=
  runHandler rowLoadWImmSr (handleLoad rowLoadWImmSr (imm16.setWidth 32)) s

end Sys2Proof.Machine
end

