-- ==== Sys2Proof/Machine/Stack.lean ====
section
/-! DEFINITION. PUSH and PULL (spec/43_handlers.md R205, R206). -/

namespace Sys2Proof.Machine

/-- The value PUSH pushes (43_handlers.md R205): the action register when present, else the mode's operand. -/
def pushSource (d : Descriptor) (sig : Long) (s : State) : Except Nat (Long × State) :=
  match d.actionReg with
  | some r =>
    match s.xr r d.count with
    | .ok v => .ok (v, s)
    | .error n => .error n
  | none => s.readOp (s.operand d sig) d.count

/-- The update a stack operation's mode leaves pending: none when the action register is the operand. -/
def stackPending (d : Descriptor) (s : State) : Option Pending :=
  match d.actionReg with
  | some _ => none
  | none => s.pending d

/-- PUSH (43_handlers.md R205). Every check comes before the write. The mode's pending update is committed before
the handler's own write of A7 (41_addressing.md R158), which is computed from A7 as it was. -/
def handlePush (d : Descriptor) (sig : Long) (s : State) : HandlerResult :=
  if validCount d.count = false then .raised d.count s
  else
    match pushSource d sig s with
    | .error n => .raised n s
    | .ok (v, t) =>
      let sp := s.reg .a7 - BitVec.ofNat 32 d.count
      .done (((t.applyPending (stackPending d s)).memWrite sp d.count v).setReg .a7 sp)

/-- PULL (43_handlers.md R206). The pop is done first; a mode is resolved after it, with the popped A7 in sight
(R206's order; log 22), its pending update is committed before the handler's write of A7 (41_addressing.md R158),
and the destination is written last. -/
def handlePull (d : Descriptor) (sig : Long) (s : State) : HandlerResult :=
  if validCount d.count = false then .raised d.count s
  else
    let sp := s.reg .a7
    let v := s.peek sp d.count
    let top := sp + BitVec.ofNat 32 d.count
    match d.actionReg with
    | some r =>
      if r.badWidth d.count then .raised d.count s
      else
        match ((s.didRead sp d.count).setReg .a7 top).xw r d.count v with
        | .ok t => .done t
        | .error n => .raised n (s.didRead sp d.count)
    | none =>
      let popped := (s.didRead sp d.count).setReg .a7 top
      match (((s.didRead sp d.count).applyPending (popped.pending d)).setReg .a7 top).writeOp
          (popped.operand d sig) d.count v with
      | .ok t => .done t
      | .error n => .raised n (s.didRead sp d.count)

/-- 0x20 PUSH.L D0. -/
def execPushLD0 (s : State) : Host.Outcome State Fault Refusal := runHandler rowPushLD0 (handlePush rowPushLD0 0) s

/-- 0x21 PULL.L D5. -/
def execPullLD5 (s : State) : Host.Outcome State Fault Refusal := runHandler rowPullLD5 (handlePull rowPullLD5 0) s

/-- 0x22 PUSH D0 (count 3): InvalidOperandWidth on every path. -/
def execPushD0Count3 (s : State) : Host.Outcome State Fault Refusal :=
  runHandler rowPushD0Count3 (handlePush rowPushD0Count3 0) s

/-- 0x23 PUSH.W SR. -/
def execPushWSr (s : State) : Host.Outcome State Fault Refusal := runHandler rowPushWSr (handlePush rowPushWSr 0) s

/-- 0x24 PULL.W SR. -/
def execPullWSr (s : State) : Host.Outcome State Fault Refusal := runHandler rowPullWSr (handlePull rowPullWSr 0) s

end Sys2Proof.Machine
end

