-- ==== Sys2Proof/Machine/Traps.lean ====
section
/-! DEFINITION. BRK, COP, STOP, RTI and the unimplemented opcode (spec/43_handlers.md R201-R204, R207). -/

namespace Sys2Proof.Machine

/-- BRK (43_handlers.md R202). -/
def handleBrk (s : State) : HandlerResult := .done (s.enter .brk)

/-- COP (43_handlers.md R203). -/
def handleCop (s : State) : HandlerResult := .done (s.enter .cop)

/-- STOP (43_handlers.md R204). -/
def handleStop (s : State) : HandlerResult := .done { s with cpuState := .waiting }

/-- RTI (43_handlers.md R207). -/
def handleRti (s : State) : HandlerResult := .done s.popPc

/-- UNIMPL (43_handlers.md R201): UnimplementedOpcode, before the pc advances (60_exceptions.md R301). -/
def State.raiseUnimplemented (s : State) (op : Byte) : State :=
  s.raiseError s.bus
    { code := .unimplementedOpcode, instrAddr := some s.pc, faultAddr := some s.pc, opcode := some op }

/-- 0x00 BRK. -/
def execBrk (s : State) : Host.Outcome State Fault Refusal := runHandler rowBrk handleBrk s

/-- 0x01 STOP. -/
def execStop (s : State) : Host.Outcome State Fault Refusal := runHandler rowStop handleStop s

/-- 0x02 COP. -/
def execCop (s : State) : Host.Outcome State Fault Refusal := runHandler rowCop handleCop s

/-- 0x03 RTI. -/
def execRti (s : State) : Host.Outcome State Fault Refusal := runHandler rowRti handleRti s

/-- An opcode of kind UNIMPL. -/
def execUnimpl (op : Byte) (s : State) : Host.Outcome State Fault Refusal := .next (s.raiseUnimplemented op)

end Sys2Proof.Machine
end

