-- ==== Sys2Proof/Machine/Other.lean ====
section
/-! DEFINITION. Handlers of kind OTHER (spec/43_handlers.md R215) and the instructions of ROM rows outside the
opcode table, which run their kind's handler (R200, 30_encoding.md R90). -/

namespace Sys2Proof.Machine

/-- A register name with A7 resolved to the stack pointer it names now (10_state.md R23). -/
def State.physical (s : State) (r : Reg) : Reg :=
  match r with
  | .a7 => if s.sr.s then .ssp else .usp
  | .d _ | .a _ | .usp | .ssp | .sr => r

/-- An update that `resolve` left pending: the register, with A7 resolved, and its value (41_addressing.md R140;
log 23). -/
structure Overlay where
  reg : Reg
  value : Long
  deriving DecidableEq, Repr, Inhabited

/-- An OTHER handler in progress: the state it sees (its own writes, never the pending update), the values it has
computed, its operand, the pending update, and the registers it has written, A7 resolved. -/
structure OtherRun where
  state : State
  vals : List Long
  operand : Operand
  overlay : Option Overlay
  written : List Reg
  deriving DecidableEq, Repr

/-- The value at a position of the handler's list; 0 where nothing stands yet (log 12). -/
def OtherRun.val (r : OtherRun) (i : Nat) : Long := r.vals.getD i 0

/-- Add a value to the handler's list. -/
def OtherRun.push (r : OtherRun) (v : Long) : OtherRun := { r with vals := r.vals ++ [v] }

/-- Continue in another state. -/
def OtherRun.at (r : OtherRun) (s : State) : OtherRun := { r with state := s }

/-- Continue in a state in which the handler has written register `reg`. -/
def OtherRun.wrote (r : OtherRun) (reg : Reg) (s : State) : OtherRun :=
  { r with state := s, written := r.state.physical reg :: r.written }

/-- A software trap as an entry of the vector table. -/
def softTrap : SoftTrap → Trap
  | .brk => .brk
  | .cop => .cop

/-- xw in a handler, the register noted as written. -/
def OtherRun.writeReg (r : OtherRun) (reg : Reg) (n : Nat) (v : Long) : Except Nat OtherRun :=
  match r.state.xw reg n v with
  | .ok s => .ok (r.wrote reg s)
  | .error k => .error k

/-- One operation of a handler (43_handlers.md R215). `skipUnless` is handled by the run. A PC-relative mode that a
handler resolves after it has jumped takes the pc as the jump has left it, the pc the handler sees (41_addressing.md R140,
00_scope.md R9), where R151 and 92 D27 say the next instruction's address (DESIGN CHOICE, log 34). -/
def OtherRun.op (d : Descriptor) (sig : Long) (r : OtherRun) (o : OtherOp) : Except Nat OtherRun :=
  match o with
  | .const v => .ok (r.push v)
  | .sig => .ok (r.push sig)
  | .pc => .ok (r.push r.state.pc)
  | .compute k args => .ok (r.push (Config.otherFn k (args.map r.val)))
  | .skipUnless _ _ => .ok r
  | .readReg reg n =>
    match r.state.xr reg n with
    | .ok v => .ok (r.push v)
    | .error k => .error k
  | .writeReg reg n v => r.writeReg reg n (r.val v)
  | .setZ v => .ok (r.at (r.state.setZ (r.val v)))
  | .setNZ v n =>
    match r.state.setNZ (r.val v) n with
    | .ok s => .ok (r.at s)
    | .error k => .error k
  | .pack => .ok (r.push (r.state.sr.pack.setWidth 32))
  | .unpack v => .ok (r.at { r.state with sr := SR.unpack ((r.val v).setWidth 16) })
  | .resolve =>
    .ok { r with
      operand := r.state.operand d sig
      overlay := (r.state.pending d).map fun p => { reg := r.state.physical p.reg.toReg, value := p.value } }
  | .ea =>
    match r.operand with
    | .mem ea => .ok (r.push ea)
    | .imm v => .ok (r.push v)
    | .reg _ => .error 0
    | .noOperand => .error 0
  | .readOp n =>
    match r.state.readOp r.operand n with
    | .ok (v, s) => .ok ((r.at s).push v)
    | .error k => .error k
  | .writeOp n v =>
    match r.operand with
    | .reg reg => r.writeReg reg n (r.val v)
    | .mem ea =>
      match r.state.writeOp (.mem ea) n (r.val v) with
      | .ok s => .ok (r.at s)
      | .error k => .error k
    | .imm _ => .error n
    | .noOperand => .error n
  | .memRead a n =>
    if validCount n then .ok ((r.at (r.state.didRead (r.val a) n)).push (r.state.peek (r.val a) n)) else .error n
  | .memWrite a n v =>
    if validCount n then .ok (r.at (r.state.memWrite (r.val a) n (r.val v))) else .error n
  | .jumpShort v => .ok (r.at (r.state.jumpShort ((r.val v).setWidth 16)))
  | .jumpLong v => .ok (r.at (r.state.jumpLong (r.val v)))
  | .jumpVector v => .ok (r.at (r.state.jumpVector (r.val v)))
  | .enter t => .ok (r.wrote .ssp (r.state.enter (softTrap t)))
  | .wait => .ok (r.at { r.state with cpuState := .waiting })
  | .fail n => .error n

/-- How many operations ahead an operation makes the run skip. -/
def OtherRun.skips (r : OtherRun) (o : OtherOp) : Nat :=
  match o with
  | .skipUnless c k => if r.val c = 0 then k else 0
  | .const _ | .sig | .pc | .compute _ _ | .readReg _ _ | .writeReg _ _ _ | .setZ _ | .setNZ _ _ | .pack | .unpack _
  | .resolve | .ea | .readOp _ | .writeOp _ _ | .memRead _ _ | .memWrite _ _ _ | .jumpShort _ | .jumpLong _
  | .jumpVector _ | .enter _ | .wait | .fail _ => 0

/-- Commit a handler (41_addressing.md R158): the pending update is applied first and the handler's own writes after
it, so a register the handler wrote keeps the handler's value and any other takes the update. -/
def OtherRun.commit (r : OtherRun) : State :=
  match r.overlay with
  | some o => if o.reg ∈ r.written then r.state else r.state.setReg o.reg o.value
  | none => r.state

/-- Run a handler's operations in order; `skip` of them are passed over first. -/
def OtherRun.run (d : Descriptor) (sig : Long) (skip : Nat) (r : OtherRun) : OtherProgram → HandlerResult
  | [] => .done r.commit
  | o :: os =>
    match skip with
    | k + 1 => OtherRun.run d sig k (if o.yields then r.push 0 else r) os
    | 0 =>
      match r.op d sig o with
      | .error n => .raised n r.state
      | .ok t => OtherRun.run d sig (r.skips o) t os

/-- A handler at its start. -/
def OtherRun.start (s : State) : OtherRun :=
  { state := s, vals := [], operand := .noOperand, overlay := none, written := [] }

/-- The bus accesses of a handler that returned an error instead of effects: the reads it made. It performed no bus
write, since every check comes before the first one (43_handlers.md R215; log 20). -/
def readsOnly (before after : List BusAccess) : List BusAccess :=
  before ++ (after.drop before.length).filter fun b => !b.isWrite

/-- execOther (43_handlers.md R215): the configuration's handler of the opcode. It returns either an error, and then
none of its effects takes place, or its effects. Without a definition the step is refused. -/
def handleOther (d : Descriptor) (sig : Long) (s : State) : HandlerResult :=
  match s.cfg.others.find? fun p => p.1 == d.opcode with
  | none => .refused (.otherUndefined d.opcode)
  | some (_, prog) =>
    match OtherRun.run d sig 0 (OtherRun.start s) prog with
    | .done t => .done t
    | .raised n t => .raised n { s with bus := readsOnly s.bus t.bus }
    | .refused r => .refused r

/-- The handler of a descriptor's kind (43_handlers.md R200). UNIMPL never gets to a handler (R201). -/
def handlerOf (d : Descriptor) (sig : Long) (s : State) : HandlerResult :=
  match d.kind with
  | .unimpl => .refused (.rowIllFormed .wf5Operands d.opcode)
  | .brk => handleBrk s
  | .cop => handleCop s
  | .stop => handleStop s
  | .push => handlePush d sig s
  | .pull => handlePull d sig s
  | .rti => handleRti s
  | .jmps => handleJmps d sig s
  | .jmpl => handleJmpl d sig s
  | .jmpv => handleJmpv d sig s
  | .call => handleCall d sig s
  | .ret => handleRet s
  | .load => handleLoad d sig s
  | .store => handleStore d sig s
  | .other => handleOther d sig s

/-- An instruction of kind OTHER. An ill-formed row is refused by check and opcode (30_encoding.md R100). -/
def execOther (d : Descriptor) (sig : Long) (s : State) : Host.Outcome State Fault Refusal :=
  match d.failure with
  | some c => .refused (.rowIllFormed c d.opcode)
  | none => runHandler d (handleOther d sig) s

/-- An instruction of a ROM row outside the opcode table: its kind's handler. -/
def execConfigured (d : Descriptor) (sig : Long) (s : State) : Host.Outcome State Fault Refusal :=
  match d.failure with
  | some c => .refused (.rowIllFormed c d.opcode)
  | none => if d.kind = .unimpl then .next (s.raiseUnimplemented d.opcode) else runHandler d (handlerOf d sig) s

end Sys2Proof.Machine
end

