-- ==== Sys2Proof/Machine/Dispatch.lean ====
section
/-! DEFINITION. One arm per instruction. -/

namespace Sys2Proof.Machine

def exec (i : Instr) (s : State) : Host.Outcome State Fault Refusal :=
  match i with
  | .brk => Sys2Proof.Machine.execBrk s
  | .stop => Sys2Proof.Machine.execStop s
  | .cop => Sys2Proof.Machine.execCop s
  | .rti => Sys2Proof.Machine.execRti s
  | .jmps a16 => Sys2Proof.Machine.execJmps a16 s
  | .jmpl a32 => Sys2Proof.Machine.execJmpl a32 s
  | .jmpv a32 => Sys2Proof.Machine.execJmpv a32 s
  | .call a32 => Sys2Proof.Machine.execCall a32 s
  | .ret => Sys2Proof.Machine.execRet s
  | .loadLImmD0 imm32 => Sys2Proof.Machine.execLoadLImmD0 imm32 s
  | .loadBImmD1 imm8 => Sys2Proof.Machine.execLoadBImmD1 imm8 s
  | .loadWPostIncA0D0 => Sys2Proof.Machine.execLoadWPostIncA0D0 s
  | .storeLD0PreDecA1 => Sys2Proof.Machine.execStoreLD0PreDecA1 s
  | .loadLImmA0 imm32 => Sys2Proof.Machine.execLoadLImmA0 imm32 s
  | .loadLImmA1 imm32 => Sys2Proof.Machine.execLoadLImmA1 imm32 s
  | .storeWD0Disp16A0 d16 => Sys2Proof.Machine.execStoreWD0Disp16A0 d16 s
  | .loadLAbsLongD2 a32 => Sys2Proof.Machine.execLoadLAbsLongD2 a32 s
  | .storeBD0AbsShort a16 => Sys2Proof.Machine.execStoreBD0AbsShort a16 s
  | .loadLIndexedA0D1D3 d8 => Sys2Proof.Machine.execLoadLIndexedA0D1D3 d8 s
  | .loadWPcDisp16D4 d16 => Sys2Proof.Machine.execLoadWPcDisp16D4 d16 s
  | .loadBIndirectA0D5 => Sys2Proof.Machine.execLoadBIndirectA0D5 s
  | .loadLD0D6 => Sys2Proof.Machine.execLoadLD0D6 s
  | .loadWDisp8A0D7 d8 => Sys2Proof.Machine.execLoadWDisp8A0D7 d8 s
  | .loadLPcIndexedD1D2 d8 => Sys2Proof.Machine.execLoadLPcIndexedD1D2 d8 s
  | .pushLD0 => Sys2Proof.Machine.execPushLD0 s
  | .pullLD5 => Sys2Proof.Machine.execPullLD5 s
  | .pushD0Count3 => Sys2Proof.Machine.execPushD0Count3 s
  | .pushWSr => Sys2Proof.Machine.execPushWSr s
  | .pullWSr => Sys2Proof.Machine.execPullWSr s
  | .loadWImmSr imm16 => Sys2Proof.Machine.execLoadWImmSr imm16 s
  | .unimpl op => Sys2Proof.Machine.execUnimpl op s
  | .other d sig => Sys2Proof.Machine.execOther d sig s
  | .configured d sig => Sys2Proof.Machine.execConfigured d sig s

end Sys2Proof.Machine
end

