-- ==== Sys2Proof/Machine/Engine.lean ====
section
/-! DEFINITION. ExecuteNext: pin selection and service, fetch and decode, the step (spec/42_engine.md R170-R179,
60_exceptions.md R283, R284, R300-R303). -/

namespace Sys2Proof.Machine

/-- The pin a step services (60_exceptions.md R283). -/
inductive Service where
  | reset
  | trap (t : Trap)
  deriving DecidableEq, Repr, Inhabited

/-- `select()` (60_exceptions.md R282, R283): RESET, ABORT, NMI, then IRQ when SR.I < IRQ_LEVEL. -/
def State.select (s : State) : Option Service :=
  if s.pins.reset then some .reset
  else if s.pins.abort then some (.trap .abort)
  else if s.pins.nmi then some (.trap .nmi)
  else if s.pins.irq && decide (s.sr.i < s.cfg.irqLevel) then some (.trap .irq)
  else none

/-- Clear the pin of a serviced interrupt (60_exceptions.md R284). BRK and COP have no pin. -/
def Pins.clear (p : Pins) (t : Trap) : Pins :=
  match t with
  | .abort => { p with abort := false }
  | .nmi => { p with nmi := false }
  | .irq => { p with irq := false }
  | .brk => p
  | .cop => p

/-- `enter(t)`, then the pin cleared (60_exceptions.md R284). -/
def State.takeInterrupt (s : State) (t : Trap) : State :=
  let e := s.enter t
  { e with pins := Pins.clear e.pins t }.charge s.cfg.intCycles

/-- `service(t)` (60_exceptions.md R284, 70_reset_and_hazards.md R321). -/
def State.service (s : State) (v : Service) : State :=
  match v with
  | .reset => s.performReset
  | .trap t => s.takeInterrupt t

/-- A skipped step (42_engine.md R177, R178): only WAIT_CYCLES are charged, and ExecuteNext returns false. -/
def State.skipStep (s : State) : State := { s.charge waitCycles with stepResult := false }

/-- OutOfRangeProgramCounter (42_engine.md R171, 60_exceptions.md R303). -/
def State.raiseOutOfRange (s : State) (instrAddr : Option Long) (faultAddr : Long) (op : Option Byte) : State :=
  s.raiseError s.bus
    { code := .outOfRangeProgramCounter, instrAddr := instrAddr, faultAddr := some faultAddr, opcode := op }

/-- An instruction byte at this address may not be fetched (42_engine.md R171). -/
def outOfRange (c : Config) (a : Long) : Bool := decide (c.memLimit ≤ a.toNat)

/-- The addresses of the `n` signature bytes after the opcode byte at `a`, in order. -/
def sigAddrs (a : Long) (n : Nat) : List Long := (List.range n).map fun i => a + BitVec.ofNat 32 (i + 1)

/-- The state after the bytes at some addresses are fetched, one ReadByte each, in order (20_memory.md R64). -/
def State.didFetch (s : State) (as : List Long) : State := as.foldl (fun t a => t.didRead a 1) s

/-- lastDecoded as decode writes it (42_engine.md R172). -/
def State.noteDecoded (s : State) (op : Byte) (mnemonic : String) : State :=
  { s with lastDecoded := some { address := s.pc, opcode := op, mnemonic := mnemonic } }

/-- Fetch, decode and execute the instruction at the pc (42_engine.md R170-R173, steps 4 onward). The opcode byte
is range-checked and read, lastDecoded written, an UNIMPL opcode refused there (R172), an ill-formed row refused by
name, the signature bytes range-checked and read, and the decoded instruction executed. -/
def State.fetchAndExecute (s : State) : Host.Outcome State Fault Refusal :=
  let a := s.pc
  if outOfRange s.cfg a then
    .next (s.raiseOutOfRange (s.lastDecoded.map LastDecoded.address) a none)
  else
    let op := s.readByte a
    let d := s.cfg.rom.row op
    let t := (s.didRead a 1).noteDecoded op d.mnemonic
    if d.kind = .unimpl then exec (Instr.unimpl op) t
    else
      match d.failure with
      | some c => .refused (.rowIllFormed c op)
      | none =>
        let as := sigAddrs a (d.length - 1)
        match as.find? (outOfRange s.cfg) with
        | some f => .next (t.raiseOutOfRange (some a) f (some op))
        | none => exec (instrOf d (sigOf (as.map s.readByte))) (t.didFetch as)

/-- ExecuteNext() (42_engine.md R170). The boolean it returns is left in `stepResult` (R176). Before the first Reset it
is refused (10_state.md R56, 93 U1). -/
def State.executeNext (s : State) : Host.Outcome State Fault Refusal :=
  if s.resetDone = false then .refused .beforeFirstReset
  else if s.cpuState = .halted then .next { s with stepResult := false }
  else if s.pins.ready = false then .next s.skipStep
  else
    match s.select with
    | some v => .next { s.service v with stepResult := true }
    | none => if s.cpuState = .waiting then .next s.skipStep else s.fetchAndExecute

end Sys2Proof.Machine
end

