-- ==== Sys2Proof/Machine/Debugger.lean ====
section
/-! DEFINITION. The non-mutating decode, the debugger's commands, the free-run worker, and the moves of host and
devices (spec/42_engine.md R183-R188, 44_debugger.md). -/

namespace Sys2Proof.Machine

/-! ### Decode without side effects -/

/-- The bytes of Decode(a) (42_engine.md R183): k counts the `n` byte addresses from `a` on that are below
MEM_LIMIT, and the first k bytes are read (log 19). -/
def State.decodeBytes (s : State) (a : Long) (n : Nat) : List Byte :=
  let as := a :: sigAddrs a (n - 1)
  (as.take (as.countP fun b => !outOfRange s.cfg b)).map s.readByte

/-- Decode(a) (42_engine.md R183). It changes no state. -/
def State.decodeAt (s : State) (a : Long) : Option DecodeRecord :=
  if outOfRange s.cfg a then none
  else
    let op := s.readByte a
    let d := s.cfg.rom.row op
    let bytes := s.decodeBytes a d.length
    some { address := a, opcode := op, descriptor := d, length := d.length, bytes := bytes
           sig := sigOf (bytes.drop 1), implemented := d.kind != .unimpl
           truncated := decide (bytes.length < d.length) }

/-! ### Line cache -/

/-- A DebugLine built from a decode record (44_debugger.md R262). Its step-over flag is the descriptor's, as R262's list
says, also for a truncated record, where R252 calls it the same value as `eligible`, which is false there: the model
takes R262's (DESIGN CHOICE, log 31). -/
def lineOf (r : DecodeRecord) : DebugLine :=
  { address := r.address, bytes := r.bytes, length := r.length, mnemonic := r.descriptor.mnemonic
    text := Config.render r, stepOver := r.descriptor.stepOver, implemented := r.implemented, stale := false }

/-- The line of an address, if it is cached. -/
def findLine (lines : List DebugLine) (a : Long) : Option DebugLine := lines.find? fun l => l.address == a

/-- Insert a line in address order, in the place of one at the same address (44_debugger.md R263). -/
def insertLine (l : DebugLine) : List DebugLine → List DebugLine
  | [] => [l]
  | k :: ks =>
    if l.address.toNat < k.address.toNat then l :: k :: ks
    else if l.address = k.address then l :: ks
    else k :: insertLine l ks

/-- The state GetLine(a) leaves (44_debugger.md R263): a line decoded and inserted if it was absent. -/
def State.cacheLine (s : State) (a : Long) : State :=
  match findLine s.lineCache a with
  | some _ => s
  | none =>
    match s.decodeAt a with
    | some r => { s with lineCache := insertLine (lineOf r) s.lineCache }
    | none => s

/-- The bytes at a cached line's addresses now. -/
def State.bytesAt (s : State) (a : Long) (n : Nat) : List Byte :=
  (List.range n).map fun i => s.readByte (a + BitVec.ofNat 32 i)

/-- Revalidate() (44_debugger.md R264): every line's stale flag is recomputed. -/
def State.revalidate (s : State) : State :=
  { s with
    lineCache := s.lineCache.map fun l => { l with stale := s.bytesAt l.address l.bytes.length != l.bytes } }

/-- refresh() (44_debugger.md R265). -/
def State.refresh (s : State) : State := (s.cacheLine s.pc).revalidate

/-! ### Execution control -/

/-- Pause() (44_debugger.md R255). The join is immediate: a step is atomic. -/
def State.pause (s : State) : State := { s with pauseFlag := true, ephemeral := none }.refresh

/-- Halt() (42_engine.md R185). -/
def State.halt (s : State) : State := { s with cpuState := .halted, pauseFlag := true, ephemeral := none }

/-- Run() (44_debugger.md R254). -/
def State.run (s : State) : State :=
  if s.pauseFlag = false then s else if s.cpuState = .halted then s else { s with pauseFlag := false }

/-- Continue after a step with a change of its next state. -/
def andThen (o : Host.Outcome State Fault Refusal) (f : State → State) : Host.Outcome State Fault Refusal :=
  match o with
  | .next s => .next (f s)
  | .fault r => .fault r
  | .refused r => .refused r

/-- Halt() as a host command: in free-run it first performs Pause, as every host command but Pause must (44_debugger.md
R266, 92 D41; log 17). -/
def State.hostHalt (s : State) : State := if s.pauseFlag then s.halt else s.pause.halt

/-- The rest of Step() once paused (44_debugger.md R250): one ExecuteNext, then refresh. -/
def State.stepPaused (s : State) : Host.Outcome State Fault Refusal := andThen s.executeNext State.refresh

/-- Step() (44_debugger.md R250). -/
def State.debugStep (s : State) : Host.Outcome State Fault Refusal := s.pause.stepPaused

/-- StepOver eligibility of the instruction at an address, with its length (44_debugger.md R252). -/
def State.eligible (s : State) (a : Long) : Option DecodeRecord :=
  match s.decodeAt a with
  | some r => if !r.truncated && r.descriptor.stepOver then some r else none
  | none => none

/-- StepOver() (44_debugger.md R253). -/
def State.debugStepOver (s : State) : Host.Outcome State Fault Refusal :=
  let p := s.pause
  match p.eligible p.pc with
  | some r =>
    if p.cpuState = .halted then p.stepPaused
    else .next { p with ephemeral := some (truncPc p.cfg (p.pc + BitVec.ofNat 32 r.length)) }.run
  | none => p.stepPaused

/-! ### Breakpoints, the interrupt watch and the hit test -/

/-- `breakpoints[a] <- label` on a map kept by rising address (44_debugger.md R256). -/
def putBreakpoint (a : Long) (label : String) : List (Long × String) → List (Long × String)
  | [] => [(a, label)]
  | (k, l) :: rest =>
    if a.toNat < k.toNat then (a, label) :: (k, l) :: rest
    else if a = k then (a, label) :: rest
    else (k, l) :: putBreakpoint a label rest

/-- `delete breakpoints[a]` (44_debugger.md R257). -/
def dropBreakpoint (a : Long) (bs : List (Long × String)) : List (Long × String) := bs.filter fun b => b.1 != a

/-- Whether an address is a key of the map. -/
def hasBreakpoint (bs : List (Long × String)) (a : Long) : Bool := bs.any fun b => b.1 == a

/-- The label a line is displayed with (44_debugger.md R262): the breakpoint's at its address, if there is one. -/
def State.displayLabel (s : State) (l : DebugLine) : Option String :=
  (s.breakpoints.find? fun b => b.1 == l.address).map Prod.snd

/-- AddBreakpoint(a, label) (44_debugger.md R256). -/
def State.addBreakpoint (s : State) (a : Long) (label : String) : State :=
  let p := s.pause
  { p with breakpoints := putBreakpoint a label p.breakpoints }

/-- RemoveBreakpoint(a) (44_debugger.md R257). -/
def State.removeBreakpoint (s : State) (a : Long) : State :=
  let p := s.pause
  { p with breakpoints := dropBreakpoint a p.breakpoints }

/-- SetInterruptWatch(on, cats) (44_debugger.md R259). -/
def State.setInterruptWatch (s : State) (on : Bool) (cats : PinSet) : State :=
  { s.pause with watchInterrupts := on, watchedCats := cats }

/-- InvalidateLines(lo, hi) (44_debugger.md R268). -/
def State.invalidateLines (s : State) (lo hi : Long) : State :=
  let p := s.pause
  { p with
    lineCache := p.lineCache.filter fun l =>
      !(decide (lo.toNat ≤ l.address.toNat) && decide (l.address.toNat ≤ hi.toNat)) }

/-- ClearLines() (44_debugger.md R268). -/
def State.clearLines (s : State) : State := { s.pause with lineCache := [] }

/-- Whether a watched pin is active (44_debugger.md R258). -/
def State.watchedPin (s : State) : Bool :=
  s.watchInterrupts &&
    ((s.watchedCats.irq && s.pins.irq) || (s.watchedCats.nmi && s.pins.nmi) ||
      (s.watchedCats.abort && s.pins.abort) || (s.watchedCats.reset && s.pins.reset))

/-- The reason a hit test answers (44_debugger.md R258), in the rule's order. -/
def State.hitReason (s : State) : Option HitReason :=
  if s.ephemeral = some s.pc then some .stepOver
  else if hasBreakpoint s.breakpoints s.pc then some .breakpoint
  else if !outOfRange s.cfg s.pc && s.readByte s.pc == 0 then some .brkOpcode
  else if s.watchedPin then some .interrupt
  else none

/-- hitTest() (44_debugger.md R258). -/
def State.hitTest (s : State) : State :=
  if s.pauseFlag then s
  else
    match s.hitReason with
    | some r => { s with pauseFlag := true, ephemeral := none, lastHit := some (r, s.pc) }.refresh
    | none => s

/-! ### The worker and the engine's move -/

/-- What follows a worker's step in its iteration: the hit test after a step that returned true (42_engine.md R184), and
after one whose error has paused the run the refresh of every pause (44_debugger.md R265, 92 D37; log 32). -/
def State.afterStep (s : State) : State :=
  if s.stepResult then s.hitTest else if s.pauseFlag then s.refresh else s

/-- One iteration of the free-run worker (42_engine.md R184, 44_debugger.md R266). -/
def State.workerMove (s : State) : Host.Outcome State Fault Refusal := andThen s.executeNext State.afterStep

/-- ExecuteCycles(n) (42_engine.md R184; n as wide as the counter, log 33) as at most `fuel` iterations of its loop. -/
def executeCycles (n : BitVec 64) : Nat → State → Host.Outcome State Fault Refusal
  | 0, s => .next s
  | fuel + 1, s =>
    if s.cycles < n ∧ s.pauseFlag = false ∧ s.cpuState ≠ .halted then
      match s.workerMove with
      | .next t => executeCycles n fuel t
      | .fault r => .fault r
      | .refused r => .refused r
    else .next s

/-- The engine's move: the worker's iteration in free-run, an ExecuteNext in the host's hands while paused
(00_scope.md R12; log 4). -/
def State.engineMove (s : State) : Host.Outcome State Fault Refusal :=
  if s.pauseFlag then s.executeNext else s.workerMove

/-! ### Host and devices -/

/-- Snapshot() (42_engine.md R186). -/
def State.snapshot (s : State) : Snapshot :=
  { d := s.d, a := s.a, a7 := s.reg .a7, usp := s.usp, ssp := s.ssp, sr := s.sr.pack, pc := s.pc
    cpuState := s.cpuState, pauseFlag := s.pauseFlag, cycles := s.cycles }

/-- A device or the bus drives a pin (10_state.md R36, R37). -/
def State.drivePin (s : State) (p : DevicePin) (level : Bool) : State :=
  match p with
  | .irq => { s with pins := { s.pins with irq := level } }
  | .nmi => { s with pins := { s.pins with nmi := level } }
  | .abort => { s with pins := { s.pins with abort := level } }
  | .reset => { s with pins := { s.pins with reset := level } }
  | .ready => { s with pins := { s.pins with ready := level } }

/-- The loader's WriteByte (20_memory.md R72, 42_engine.md R188): memory only; it is no access of the core. -/
def State.hostWriteByte (s : State) (a : Long) (v : Byte) : State := { s with mem := memPut s.mem a.toNat v }

/-- The commands issued only while paused: those that neither perform Pause nor are given an effect in free-run by
their own rule, as Run is (42_engine.md R188, 44_debugger.md R254, R266; log 17). -/
def HostCommand.needsPaused : HostCommand → Bool
  | .executeNext | .executeCycles _ | .resetCycles | .preFetch | .decode _ | .reset | .jumpShort _
  | .jumpLong _ | .jumpVector _ | .snapshot | .writeByte _ _ | .getLine _ | .revalidate => true
  | .halt | .step | .stepOver | .run | .pause | .addBreakpoint _ _ | .removeBreakpoint _ | .setInterruptWatch _ _
  | .invalidateLines _ _ | .clearLines => false

/-- The status the host gets back: the boolean of the last ExecuteNext (42_engine.md R176, R188), and false when none
has been done yet; Reset keeps it (log 7). -/
def State.replyStatus (s : State) : State := { s with reply := some (.status s.stepResult) }

/-- The effect of a host command that is enabled (42_engine.md R188, 44_debugger.md). ExecuteCycles is issued only
while paused, and then its loop ends before its first step (R184); in free-run its steps are the worker's moves
(44_debugger.md R266; log 18). -/
def State.hostCommand (s : State) (c : HostCommand) : Host.Outcome State Fault Refusal :=
  match c with
  | .executeNext => andThen s.executeNext State.replyStatus
  | .executeCycles n => executeCycles n 1 s
  | .resetCycles => .next { s with cycles := 0 }
  | .preFetch => .next { s with reply := some (.decoded (s.decodeAt s.pc)) }
  | .decode a => .next { s with reply := some (.decoded (s.decodeAt a)) }
  | .reset => .next s.performReset
  | .halt => .next s.hostHalt
  | .jumpShort a => .next (s.jumpShort a)
  | .jumpLong a => .next (s.jumpLong a)
  | .jumpVector a => .next (s.jumpVector a)
  | .snapshot => .next { s with reply := some (.snapshot s.snapshot) }
  | .writeByte a v => .next (s.hostWriteByte a v)
  | .step => andThen s.debugStep State.replyStatus
  | .stepOver => andThen s.debugStepOver State.replyStatus
  | .run => .next s.run.replyStatus
  | .pause => .next s.pause.replyStatus
  | .addBreakpoint a label => .next (s.addBreakpoint a label).replyStatus
  | .removeBreakpoint a => .next (s.removeBreakpoint a).replyStatus
  | .setInterruptWatch on cats => .next (s.setInterruptWatch on cats).replyStatus
  | .getLine a =>
    let t := s.cacheLine a
    .next { t with reply := some (.line (findLine t.lineCache a)) }
  | .revalidate => .next s.revalidate.replyStatus
  | .invalidateLines lo hi => .next (s.invalidateLines lo hi).replyStatus
  | .clearLines => .next s.clearLines.replyStatus

/-- A host command as a move: refused in free-run where the spec gives it no move. Before the first Reset every command
has its effect but those that do an ExecuteNext, which is refused there (10_state.md R56; log 28). -/
def State.hostMove (s : State) (c : HostCommand) : Host.Outcome State Fault Refusal :=
  if s.pauseFlag = false ∧ c.needsPaused = true then .refused .hostAccessWhileRunning else s.hostCommand c

/-- One move of an agent (44_debugger.md R266). -/
def State.move (s : State) (m : Move) : Host.Outcome State Fault Refusal :=
  match m with
  | .engine => s.engineMove
  | .device p level => .next (s.drivePin p level)
  | .host c => s.hostMove c

/-- A move begins: the record of the last one is cleared. -/
def State.beginMove (s : State) : State := { s with bus := [], reply := none }

/-- The next move of the machine: the first of the schedule, or the engine's when the schedule is empty. A machine
whose configuration fails its check has no move: it is refused at construction (30_encoding.md R100; log 15). -/
def State.nextMove (s : State) : Host.Outcome State Fault Refusal :=
  match Config.failure vecReset s.cfg with
  | some f => .refused (.configRefused f)
  | none =>
    match s.schedule with
    | [] => s.beginMove.move .engine
    | m :: rest => { s.beginMove with schedule := rest }.move m

/-- The state in which the next step fetches, with an instruction's bytes stored at its pc: the schedule empty, a
first Reset done, the processor Ready, READY high and no interrupt pin active, so that the very next step fetches.
The five bytes are the longest instruction's (30_encoding.md R91). -/
def State.placeInstruction (s : State) (bytes : List Byte) : State :=
  { s with
    mem := bytes.zipIdx.foldl (fun m p => memPut m (s.pc + BitVec.ofNat 32 p.2).toNat p.1) s.mem
    schedule := []
    resetDone := true
    cpuState := .ready
    pins := { s.pins with irq := false, nmi := false, abort := false, reset := false, ready := true } }

end Sys2Proof.Machine
end

