-- ==== Sys2Proof/Machine/Step.lean ====
section
/-! DEFINITION. The one step of the machine, and the placing of an instruction where the step fetches. -/

namespace Sys2Proof.Machine

/-- One step: the next move of the machine (spec/42_engine.md R170, 44_debugger.md R266). -/
def step : State → Host.Outcome State Fault Refusal := State.nextMove

/-- `s` with the instruction whose bits are `w` stored where the next step fetches (log 24). -/
def State.withFetchWord (s : State) (nbits w : Nat) : State := s.placeInstruction (tableBytes nbits w)

end Sys2Proof.Machine
end

