-- ==== Sys2Proof/Safety.lean ====
section
/-! DEFINITION. What counts as a safe state, in the terms the statements use: the invariants of the machine. -/

namespace Sys2Proof.Machine

/-- The pc is below 2^PC_BITS (spec/10_state.md R25). -/
abbrev State.PcInRange (s : State) : Prop := s.pc.toNat < 2 ^ s.cfg.pcBits.bits

/-- The memory is in its canonical form. -/
abbrev State.MemCanonical (s : State) : Prop := Memory.wf s.mem = true

/-- VECTOR_PULL is low between moves (spec/20_memory.md R63, 10_state.md R55). -/
abbrev State.VectorPullLow (s : State) : Prop := s.pins.vectorPull = false

/-- No ephemeral breakpoint stands while the debugger is paused (spec/44_debugger.md R261). -/
abbrev State.EphemeralOnlyRunning (s : State) : Prop := s.pauseFlag = true → s.ephemeral = none

/-- Halted always comes with the pause flag (spec/10_state.md R41). -/
abbrev State.HaltedIsPaused (s : State) : Prop := s.cpuState = .halted → s.pauseFlag = true

/-- Addresses strictly rise along a list: each key is there once, in address order. -/
def rising : List Long → Bool
  | [] => true
  | [_] => true
  | a :: b :: rest => decide (a.toNat < b.toNat) && rising (b :: rest)

/-- The breakpoint map has unique keys (spec/10_state.md R46), kept in address order (log 25, DESIGN CHOICE). -/
abbrev State.BreakpointsOrdered (s : State) : Prop := rising (s.breakpoints.map Prod.fst) = true

/-- The line cache is in increasing address order, one line an address (spec/10_state.md R49). -/
abbrev State.LinesOrdered (s : State) : Prop := rising (s.lineCache.map DebugLine.address) = true

/-- The invariant of the machine: each part is kept by every step, from every state that meets them all. -/
structure State.Inv (s : State) : Prop where
  pcInRange : s.PcInRange
  memCanonical : s.MemCanonical
  vectorPullLow : s.VectorPullLow
  ephemeralOnlyRunning : s.EphemeralOnlyRunning
  haltedIsPaused : s.HaltedIsPaused
  breakpointsOrdered : s.BreakpointsOrdered
  linesOrdered : s.LinesOrdered

end Sys2Proof.Machine
end

