-- ==== Sys2Proof/Certificates/Slice0/Obligations.lean ====
section
/-! DEFINITION. The statements for the provers. Each docstring names the rule of the spec it formalises. -/

open Sys2Proof Sys2Proof.Machine

namespace Sys2Proof.Machine

/-! ### The words the statements use -/

/-- A read access of `n` bytes at `a` as the bus sees it. -/
def State.readRecord (s : State) (a : Long) (n : Nat) : BusAccess :=
  { isWrite := false, addr := a, bytes := n, value := s.peek a n, vectorPull := s.pins.vectorPull }

/-- A vector read at `a`: 4 bytes with VECTOR_PULL high (spec/20_memory.md R63). -/
def State.vecRecord (s : State) (a : Long) : BusAccess :=
  { isWrite := false, addr := a, bytes := 4, value := s.peek a 4, vectorPull := true }

/-- A write access of `n` bytes at `a`. -/
def State.writeRecord (s : State) (a : Long) (n : Nat) (v : Long) : BusAccess :=
  { isWrite := true, addr := a, bytes := n, value := lowBytes n v, vectorPull := s.pins.vectorPull }

/-- The address of the next instruction after one of `len` bytes at the pc (spec/10_state.md R27). -/
def State.nextPc (s : State) (len : Nat) : Long := truncPc s.cfg (s.pc + BitVec.ofNat 32 len)

/-- What every committed instruction of `len` bytes and `cyc` cycles does: the pc is the next instruction's
address, the cycles are charged, ExecuteNext returns true. -/
def State.retired (s : State) (len cyc : Nat) : State :=
  { s with pc := s.nextPc len, cycles := s.cycles + BitVec.ofNat 64 cyc, stepResult := true }

/-- N and Z from a `w`-byte value, every other field kept (spec/40_flags.md R121). -/
def SR.withNZ (r : SR) (v : Long) (w : Nat) : SR :=
  { r with n := v.getLsbD (8 * w - 1), z := lowBytes w v == 0 }

/-- A load of `w` bytes from memory at `ea` into data register `i` by an instruction of `len` bytes. -/
def State.loaded (s : State) (len : Nat) (i : Fin 8) (w : Nat) (ea : Long) : State :=
  { s.retired len 4 with
    d := s.d.set i (patchLow w s.d[i] (s.peek ea w))
    sr := s.sr.withNZ (s.peek ea w) w
    bus := s.bus ++ [s.readRecord ea w] }

/-- A store of the low `w` bytes of `v` at `ea` by an instruction of `len` bytes. -/
def State.stored (s : State) (len w : Nat) (ea v : Long) : State :=
  { s.retired len 4 with
    mem := memPutBE s.mem ea w v
    sr := s.sr.withNZ v w
    bus := s.bus ++ [s.writeRecord ea w v] }

/-- The memory after the pc `ret` is pushed on SSP. -/
def State.framePushed (s : State) (ret : Long) : State := { s with mem := memPutBE s.mem (s.ssp - 4) 4 ret }

/-- The state the trap entry of spec/60_exceptions.md R290 leaves when it pushes `ret`. -/
def State.entered (s : State) (t : Trap) (ret : Long) : State :=
  { s.framePushed ret with
    ssp := s.ssp - 4
    sr := { s.sr with
      s := true, t1 := false, t0 := false
      i := match t with
        | .irq => s.cfg.irqLevel
        | .nmi => 7
        | .brk | .cop | .abort => s.sr.i }
    cpuState := match s.cpuState with
      | .waiting => .ready
      | .ready => .ready
      | .halted => .halted
    pc := truncPc s.cfg ((s.framePushed ret).peek (vectorOf s.cfg t) 4)
    pins := { s.pins with vectorPull := false }
    bus := s.bus ++ [s.writeRecord (s.ssp - 4) 4 ret, (s.framePushed ret).vecRecord (vectorOf s.cfg t)] }

/-- The state after 4 bytes are popped from the active stack into the pc (spec/43_handlers.md R207). -/
def State.popped (s : State) : State :=
  { (s.setReg .a7 (s.reg .a7 + 4)) with
    pc := truncPc s.cfg (s.peek (s.reg .a7) 4)
    bus := s.bus ++ [s.readRecord (s.reg .a7) 4] }

/-- The state after an error with the given record (spec/60_exceptions.md R300), from the step's start state. -/
def State.failed (s : State) (halt : Bool) (e : ErrorRecord) : State :=
  { s with
    lastError := some e
    pauseFlag := true
    ephemeral := none
    cpuState := if halt then .halted else s.cpuState
    stepResult := false }

/-- The machine's next step belongs to the engine, with the moves `rest` to come after it: the schedule is empty (log 4)
or its first move is the engine's (log 5). A first Reset has been done, and the configuration has passed the checks of
construction (spec/30_encoding.md R100). -/
def State.EngineTurn (s : State) (rest : List Move) : Prop :=
  (s.schedule = [] ∧ rest = [] ∨ s.schedule = .engine :: rest) ∧ s.resetDone = true ∧
    Config.failure vecReset s.cfg = none

/-- What is true at a step that fetches: Ready, READY high, no pin to service. -/
def State.Fetches (s : State) : Prop := s.cpuState = .ready ∧ s.pins.ready = true ∧ s.select = none

/-- What each primitive of an OTHER handler does, at any point `r` of its run (spec/43_handlers.md R215, with
40_flags.md R120-R131, 41_addressing.md R140, R156, R157, 20_memory.md R61, R62, 42_engine.md R180-R182, 60_exceptions.md
R290). Values are positions in the handler's list; that a position not yet there holds 0 and that a missing operand
reports an error are the model's choice (log 12). A written register is noted with A7 resolved (log 23). -/
def OtherRun.PrimitiveEffects (d : Descriptor) (sig : Long) (r : OtherRun) : Prop :=
  let yield := fun (x : Long) => Except.ok (ε := Nat) { r with vals := r.vals ++ [x] }
  let goOn := fun (t : State) => Except.ok (ε := Nat) { r with state := t }
  let wrote := fun (q : Reg) (t : State) =>
    Except.ok (ε := Nat) { r with state := t, written := r.state.physical q :: r.written }
  let val := fun (i : Nat) => r.vals.getD i 0
  let write := fun (q : Reg) (n : Nat) (x : Long) =>
    if q.badWidth n = true then .error n
    else wrote q (r.state.setReg q (patchLow n (r.state.reg q) x))
  (∀ x, r.op d sig (.const x) = yield x) ∧
  r.op d sig .sig = yield sig ∧
  r.op d sig .pc = yield r.state.pc ∧
  (∀ k args, r.op d sig (.compute k args) = yield (Config.otherFn k (args.map val))) ∧
  (∀ q n, r.op d sig (.readReg q n) =
    if q.badWidth n = true then .error n else yield (lowBytes n (r.state.reg q))) ∧
  (∀ q n v, r.op d sig (.writeReg q n v) = write q n (val v)) ∧
  (∀ v, r.op d sig (.setZ v) = goOn { r.state with sr := { r.state.sr with z := decide (val v = 0) } }) ∧
  (∀ v n, r.op d sig (.setNZ v n) =
    if validCount n = true then goOn { r.state with sr := r.state.sr.withNZ (val v) n } else .error n) ∧
  r.op d sig .pack = yield (r.state.sr.pack.setWidth 32) ∧
  (∀ v, r.op d sig (.unpack v) = goOn { r.state with sr := SR.unpack ((val v).setWidth 16) }) ∧
  r.op d sig .resolve =
    .ok { r with
      operand := r.state.operand d sig
      overlay := (r.state.pending d).map fun p => { reg := r.state.physical p.reg.toReg, value := p.value } } ∧
  (r.op d sig .ea =
    match r.operand with
    | .mem ea => yield ea
    | .imm x => yield x
    | .reg _ => .error 0
    | .noOperand => .error 0) ∧
  (∀ n, r.op d sig (.readOp n) =
    match r.operand with
    | .reg q => if q.badWidth n = true then .error n else yield (lowBytes n (r.state.reg q))
    | .mem ea =>
      if validCount n = true then
        .ok { r with state := r.state.didRead ea n, vals := r.vals ++ [r.state.peek ea n] }
      else .error n
    | .imm x => yield (lowBytes n x)
    | .noOperand => .error n) ∧
  (∀ n v, r.op d sig (.writeOp n v) =
    match r.operand with
    | .reg q => write q n (val v)
    | .mem ea => if validCount n = true then goOn (r.state.memWrite ea n (val v)) else .error n
    | .imm _ => .error n
    | .noOperand => .error n) ∧
  (∀ a n, r.op d sig (.memRead a n) =
    if validCount n = true then
      .ok { r with state := r.state.didRead (val a) n, vals := r.vals ++ [r.state.peek (val a) n] }
    else .error n) ∧
  (∀ a n v, r.op d sig (.memWrite a n v) =
    if validCount n = true then goOn (r.state.memWrite (val a) n (val v)) else .error n) ∧
  (∀ v, r.op d sig (.jumpShort v) =
    goOn { r.state with pc := truncPc r.state.cfg (((val v).setWidth 16).signExtend 32) }) ∧
  (∀ v, r.op d sig (.jumpLong v) = goOn { r.state with pc := truncPc r.state.cfg (val v) }) ∧
  (∀ v, r.op d sig (.jumpVector v) = goOn (r.state.jumpVector (val v))) ∧
  r.op d sig (.enter .brk) = wrote .ssp (r.state.entered .brk r.state.pc) ∧
  r.op d sig (.enter .cop) = wrote .ssp (r.state.entered .cop r.state.pc) ∧
  r.op d sig .wait = goOn { r.state with cpuState := .waiting } ∧
  ∀ n, r.op d sig (.fail n) = .error n

/-- How a run of an OTHER handler goes on from point `r` (spec/43_handlers.md R215, 41_addressing.md R158): one
operation after the other, an error ends it, `skipUnless` passes over operations when its value is 0, and at the end
the update that resolve left pending is committed, unless the handler has written that register itself. -/
def OtherRun.RunInOrder (d : Descriptor) (sig : Long) (r : OtherRun) : Prop :=
  (∀ (o : OtherOp) (os : OtherProgram), (∀ c k, o ≠ .skipUnless c k) →
    (∀ t, r.op d sig o = .ok t → OtherRun.run d sig 0 r (o :: os) = OtherRun.run d sig 0 t os) ∧
    ∀ n, r.op d sig o = .error n → OtherRun.run d sig 0 r (o :: os) = .raised n r.state) ∧
  (∀ (c k : Nat) (os : OtherProgram),
    OtherRun.run d sig 0 r (.skipUnless c k :: os) =
      OtherRun.run d sig (if r.vals.getD c 0 = 0 then k else 0) r os) ∧
  (∀ (k : Nat) (o : OtherOp) (os : OtherProgram),
    OtherRun.run d sig (k + 1) r (o :: os) =
      OtherRun.run d sig k (if o.yields = true then { r with vals := r.vals ++ [0] } else r) os) ∧
  ∀ k : Nat,
    OtherRun.run d sig k r [] =
      .done
        (match r.overlay with
        | some o => if o.reg ∈ r.written then r.state else r.state.setReg o.reg o.value
        | none => r.state)

end Sys2Proof.Machine

/-! ### Encoding -/

/-- The words of TEST_ROM (spec/30_encoding.md R106, with R96): a few instructions written out byte by byte. -/
def Obligations.WordsOfTheOpcodeTable : Prop :=
  decode testRom [0x00] = .ok (.brk, []) ∧
  decode testRom [0x04, 0x12, 0x34] = .ok (.jmps 0x1234, []) ∧
  decode testRom [0x07, 0x00, 0x00, 0x10, 0x20] = .ok (.call 0x00001020, []) ∧
  decode testRom [0x10, 0x80, 0x00, 0x00, 0x01] = .ok (.loadLImmD0 0x80000001, []) ∧
  decode testRom [0x16, 0xFF, 0xFE] = .ok (.storeWD0Disp16A0 0xFFFE, []) ∧
  decode testRom [0x1E, 0x02] = .ok (.loadLPcIndexedD1D2 0x02, []) ∧
  decode testRom [0x22] = .ok (.pushD0Count3, []) ∧
  decode testRom [0x30, 0x27, 0x00] = .ok (.loadWImmSr 0x2700, []) ∧
  decode testRom [0xFF] = .ok (.unimpl 0xFF, [])

/-- Decode and encode agree (spec/30_encoding.md R91, R96, R98): for every ROM, every well-formed instruction it
binds comes back from its own bytes with every operand, and the bytes after it are left. -/
def Obligations.DecodeOfEncode : Prop :=
  ∀ (rom : Rom) (i : Instr) (rest : List Byte), i.wf = true → i.boundBy rom = true →
    decode rom (encode i ++ rest) = .ok (i, rest)

/-- Each word has one meaning (spec/30_encoding.md R91, R103): for every ROM, the bytes a decoded instruction was
read from are its encoding. -/
def Obligations.EncodeOfDecode : Prop :=
  ∀ (rom : Rom) (bytes : List Byte) (i : Instr) (rest : List Byte), decode rom bytes = .ok (i, rest) →
    encode i ++ rest = bytes

/-- What the decoder answers is well-formed and bound by the ROM (spec/30_encoding.md R90, R100). -/
def Obligations.DecodedIsWellFormedAndBound : Prop :=
  ∀ (rom : Rom) (bytes : List Byte) (i : Instr) (rest : List Byte), decode rom bytes = .ok (i, rest) →
    i.wf = true ∧ i.boundBy rom = true

/-- The length rule (spec/30_encoding.md R94) and the place of the mode's field (R98): only SR is 16 bits wide, so only
it adds the byte; the field is the first fieldBytes signature bytes, read big-endian. -/
def Obligations.LengthAndField : Prop :=
  ∀ d : Descriptor,
    d.length = d.baseLength +
      (if d.lenAdj = true ∧ ∃ r, d.actionReg = some r ∧ r.width = 16 then 1 else 0) ∧
    (d.length = d.baseLength + 1 ↔ d.lenAdj = true ∧ d.actionReg = some .sr) ∧
    ∀ bytes : List Byte, d.length ≤ 5 → bytes.length = d.length - 1 → d.mode.fieldBytes d.w ≤ d.length - 1 →
      d.field (sigOf bytes) = sigOf (bytes.take (d.mode.fieldBytes d.w))

/-- The checks of construction (spec/30_encoding.md R100, R90, R92, R101; 00_scope.md R6): a machine whose
configuration fails one has no move at all, and the refusal names it (a ROM's by check and opcode); a machine whose
configuration passes has BRK at opcode 0x00 and in every row a descriptor of that opcode that passes its checks, and
none of its steps stops for reasons of shape. Which check names the refusal when several fail is the model's choice
(log 15). -/
def Obligations.WellFormedRomIsNeverRefused : Prop :=
  ∀ s : State,
    (∀ f, Config.failure vecReset s.cfg = some f → step s = .refused (.configRefused f)) ∧
    (∀ c op, 1 ≤ s.cfg.memLimit → s.cfg.memLimit ≤ 2 ^ s.cfg.pcBits.bits → s.cfg.irqLevel ≠ 0 →
      allCellsApart [vecReset, s.cfg.vecBrk, s.cfg.vecCop, s.cfg.vecAbort, s.cfg.vecNmi, s.cfg.vecIrq] = true →
      Rom.failure s.cfg.rom = some (c, op) → step s = .refused (.configRefused (.rom c op))) ∧
    (Config.failure vecReset s.cfg = none →
      (s.cfg.rom.row 0).kind = .brk ∧
      (∀ op : Byte,
        let d := s.cfg.rom.row op
        d.opcode = op ∧ d.failure = none ∧ 1 ≤ d.baseLength ∧ d.baseLength ≤ 5 ∧ 1 ≤ d.length ∧ d.length ≤ 5 ∧
          d.mode.fieldBytes d.w ≤ d.length - 1 ∧ (d.w = 1 ∨ d.w = 2 ∨ d.w = 4)) ∧
      (∀ c op, step s ≠ .refused (.rowIllFormed c op)) ∧ ∀ f, step s ≠ .refused (.configRefused f))

/-! ### Flags and register ports -/

/-- SetZ and SetNZ (spec/40_flags.md R120, R121): which flags they write and from which bits; every other field is
unchanged, and a width other than 1, 2 or 4 is InvalidOperandWidth. -/
def Obligations.FlagPrimitives : Prop :=
  ∀ (r : SR) (v : Long),
    r.setZ v = { r with z := decide (v = 0) } ∧
    (∀ w : Nat, w = 1 ∨ w = 2 ∨ w = 4 →
      r.setNZ v w =
        .ok { r with z := decide (v.toNat % 2 ^ (8 * w) = 0), n := v.toNat.testBit (8 * w - 1) }) ∧
    ∀ w : Nat, ¬(w = 1 ∨ w = 2 ∨ w = 4) → r.setNZ v w = .error w

/-- Pack and Unpack (spec/40_flags.md R123, R126): the packed word is the sum of the fields' masks, Unpack undoes
Pack, and Pack of an unpacked word has bits 11 and 7:5 zero, so it is the word itself exactly when those are 0. -/
def Obligations.PackAndUnpack : Prop :=
  (∀ r : SR,
    r.pack.toNat =
      r.t1.toNat * 0x8000 + r.t0.toNat * 0x4000 + r.s.toNat * 0x2000 + r.m.toNat * 0x1000 + r.i.toNat * 0x100 +
        r.x.toNat * 0x10 + r.n.toNat * 0x8 + r.z.toNat * 0x4 + r.v.toNat * 0x2 + r.c.toNat * 0x1) ∧
  (∀ r : SR, SR.unpack r.pack = r) ∧
  (∀ w : Half, (SR.unpack w).pack = w &&& 0xF71F) ∧
  ∀ w : Half, (SR.unpack w).pack = w ↔ w &&& 0x08E0 = 0

/-- The sized register ports (spec/40_flags.md R130, R131): a read answers the register mod 2^(8n); a write
replaces the low bytes and keeps the upper ones, SR through Unpack; both raise InvalidOperandWidth for a count that
is not 1, 2 or 4 or is wider than the register. A7 names SSP when S = 1 and USP when S = 0, for reads and writes
(10_state.md R23); a register reads back what was written to it, and every other register is as before. -/
def Obligations.SizedRegisterPorts : Prop :=
  ∀ (s : State) (r : Reg) (n : Nat) (v : Long),
    (¬(n = 1 ∨ n = 2 ∨ n = 4) ∨ r.width < 8 * n → s.xr r n = .error n ∧ s.xw r n v = .error n) ∧
    ((n = 1 ∨ n = 2 ∨ n = 4) ∧ 8 * n ≤ r.width →
      ∃ u, s.xr r n = .ok u ∧
        u.toNat = (if r = .sr then s.sr.pack.toNat else (s.reg r).toNat) % 2 ^ (8 * n)) ∧
    ((n = 1 ∨ n = 2 ∨ n = 4) ∧ r ≠ .sr →
      ∃ x, s.xw r n v = .ok (s.setReg r x) ∧
        x.toNat = (s.reg r).toNat - (s.reg r).toNat % 2 ^ (8 * n) + v.toNat % 2 ^ (8 * n)) ∧
    s.xw .sr 1 v =
      .ok { s with sr := SR.unpack ((s.sr.pack &&& 0xFF00) ||| (v.setWidth 8).setWidth 16) } ∧
    s.xw .sr 2 v = .ok { s with sr := SR.unpack (v.setWidth 16) } ∧
    s.reg .a7 = (if s.sr.s = true then s.ssp else s.usp) ∧
    s.setReg .a7 v = (if s.sr.s = true then { s with ssp := v } else { s with usp := v }) ∧
    (r ≠ .sr →
      (s.setReg r v).reg r = v ∧ (s.setReg r v).sr = s.sr ∧
        ∀ q, s.physical q ≠ s.physical r → (s.setReg r v).reg q = s.reg q)

/-! ### Memory and the bus -/

/-- MemRead is big-endian (spec/20_memory.md R61), addresses mod 2^32. -/
def Obligations.ReadsAreBigEndian : Prop :=
  ∀ (s : State) (a : Long),
    s.peek a 1 = (s.readByte a).setWidth 32 ∧
    s.peek a 2 = (s.readByte a ++ s.readByte (a + 1) : BitVec 16).setWidth 32 ∧
    s.peek a 4 =
      (s.readByte a ++ s.readByte (a + 1) ++ s.readByte (a + 2) ++ s.readByte (a + 3) : BitVec 32)

/-- MemWrite is big-endian (spec/20_memory.md R62): after MemWrite(a, 4, v) the byte at a is v[31:24] and the byte
at a+3 is v[7:0], a read of the same width gives the value back, and every other byte is unchanged. -/
def Obligations.WriteThenRead : Prop :=
  ∀ (s : State) (a v : Long), s.MemCanonical →
    (∀ n : Nat, n = 1 ∨ n = 2 ∨ n = 4 →
      (s.memWrite a n v).peek a n = lowBytes n v ∧
      ∀ b : Long, (∀ i < n, b ≠ a + BitVec.ofNat 32 i) → (s.memWrite a n v).readByte b = s.readByte b) ∧
    (s.memWrite a 4 v).readByte a = v.extractLsb' 24 8 ∧
    (s.memWrite a 4 v).readByte (a + 1) = v.extractLsb' 16 8 ∧
    (s.memWrite a 4 v).readByte (a + 2) = v.extractLsb' 8 8 ∧
    (s.memWrite a 4 v).readByte (a + 3) = v.extractLsb' 0 8

/-- The jump operations (spec/42_engine.md R180-R182, 20_memory.md R63): the pc wraps mod 2^PC_BITS, and JumpVector
makes one 4-byte read with VECTOR_PULL high during it and low after it. -/
def Obligations.JumpOperations : Prop :=
  ∀ (s : State) (a : Half) (l : Long),
    s.jumpShort a = { s with pc := truncPc s.cfg (a.signExtend 32) } ∧
    s.jumpLong l = { s with pc := truncPc s.cfg l } ∧
    s.jumpVector l =
      { s with
        pc := truncPc s.cfg (s.peek l 4)
        pins := { s.pins with vectorPull := false }
        bus := s.bus ++ [s.vecRecord l] } ∧
    (truncPc s.cfg l).toNat = l.toNat % 2 ^ s.cfg.pcBits.bits

/-! ### Addressing modes -/

/-- The modes' operands and pending updates (spec/41_addressing.md R143-R155). -/
def Obligations.AddressingModes : Prop :=
  ∀ (s : State) (d : Descriptor) (sig : Long),
    let f := d.field sig
    let d8 := (f.setWidth 8).signExtend 32
    let d16 := (f.setWidth 16).signExtend 32
    let index := fun (x : IndexReg) (xs : IndexSize) =>
      if xs = .w then ((s.reg x.toReg).setWidth 16).signExtend 32 else s.reg x.toReg
    (d.mode = .none → s.operand d sig = .noOperand ∧ s.pending d = none) ∧
    (∀ r, d.mode = .regDirect r → s.operand d sig = .reg r ∧ s.pending d = none) ∧
    (∀ r, d.mode = .indirect r → s.operand d sig = .mem (s.reg r.toReg) ∧ s.pending d = none) ∧
    (∀ r, d.mode = .postInc r → s.operand d sig = .mem (s.reg r.toReg) ∧
      s.pending d = some { reg := r, value := s.reg r.toReg + BitVec.ofNat 32 d.w }) ∧
    (∀ r, d.mode = .preDec r → s.operand d sig = .mem (s.reg r.toReg - BitVec.ofNat 32 d.w) ∧
      s.pending d = some { reg := r, value := s.reg r.toReg - BitVec.ofNat 32 d.w }) ∧
    (∀ r, d.mode = .disp8 r → s.operand d sig = .mem (s.reg r.toReg + d8) ∧ s.pending d = none) ∧
    (∀ r, d.mode = .disp16 r → s.operand d sig = .mem (s.reg r.toReg + d16) ∧ s.pending d = none) ∧
    (∀ r x xs, d.mode = .indexed r x xs →
      s.operand d sig = .mem (s.reg r.toReg + d8 + index x xs) ∧ s.pending d = none) ∧
    (d.mode = .pcDisp16 → s.operand d sig = .mem (s.pc + d16) ∧ s.pending d = none) ∧
    (∀ x xs, d.mode = .pcIndexed x xs →
      s.operand d sig = .mem (s.pc + d8 + index x xs) ∧ s.pending d = none) ∧
    (d.mode = .absShort → s.operand d sig = .mem d16 ∧ s.pending d = none) ∧
    (d.mode = .absLong → s.operand d sig = .mem f ∧ s.pending d = none) ∧
    (d.mode = .immediate → s.operand d sig = .imm f ∧ s.pending d = none)

/-- Same-register cases (spec/41_addressing.md R158, R160, 43_handlers.md R213): a LOAD through (An)+ or -(An) into
An leaves the loaded bytes, over the upper bytes An had before the update, whatever the width; and a STORE of An
through -(An) stores the value from before the decrement and leaves An decremented. -/
def Obligations.SameRegisterCases : Prop :=
  ∀ (d : Descriptor) (sig : Long) (s : State) (i : Fin 7), d.failure = none → d.actionReg = some (.a i) →
    (d.kind = .load → d.mode = .postInc (.an i) →
      ∃ t, exec (.configured d sig) s = .next t ∧ t.a[i] = patchLow d.w s.a[i] (s.peek s.a[i] d.w)) ∧
    (d.kind = .load → d.mode = .preDec (.an i) →
      ∃ t, exec (.configured d sig) s = .next t ∧
        t.a[i] = patchLow d.w s.a[i] (s.peek (s.a[i] - BitVec.ofNat 32 d.w) d.w)) ∧
    (d.kind = .store → d.mode = .preDec (.an i) →
      ∃ t, exec (.configured d sig) s = .next t ∧ t.a[i] = s.a[i] - BitVec.ofNat 32 d.w ∧
        t.mem = memPutBE s.mem (s.a[i] - BitVec.ofNat 32 d.w) d.w s.a[i])

/-! ### Traps, returns, jumps -/

/-- Trap and interrupt entry (spec/60_exceptions.md R290). -/
def Obligations.TrapEntry : Prop := ∀ (s : State) (t : Trap), s.enter t = s.entered t s.pc

/-- BRK, COP and STOP (spec/43_handlers.md R202-R204): a trap enters through its vector and pushes the next
instruction's address; STOP waits with the pc at the next instruction; nothing else changes but the cycles. -/
def Obligations.SoftwareTrapsAndStop : Prop :=
  ∀ s : State,
    exec .brk s =
      .next { s.entered .brk (s.nextPc 1) with cycles := s.cycles + 4, stepResult := true } ∧
    exec .cop s =
      .next { s.entered .cop (s.nextPc 1) with cycles := s.cycles + 4, stepResult := true } ∧
    exec .stop s = .next { s.retired 1 4 with cpuState := .waiting }

/-- RTI and RET (spec/43_handlers.md R207, R212): 4 bytes popped from the active stack into the pc, no SR field
restored. JMPS, JMPL and JMPV (R208-R210): the pc from the operand, and for JMPV from the vector cell. -/
def Obligations.ReturnsAndJumps : Prop :=
  ∀ s : State,
    exec .rti s = .next { s.popped with cycles := s.cycles + 4, stepResult := true } ∧
    exec .ret s = .next { s.popped with cycles := s.cycles + 4, stepResult := true } ∧
    (∀ a : Half, exec (.jmps a) s = .next { s.retired 3 4 with pc := truncPc s.cfg (a.signExtend 32) }) ∧
    (∀ a : Long, exec (.jmpl a) s = .next { s.retired 5 4 with pc := truncPc s.cfg a }) ∧
    ∀ a : Long,
      exec (.jmpv a) s =
        .next
          { s.retired 5 4 with
            pc := truncPc s.cfg (s.peek a 4)
            pins := { s.pins with vectorPull := false }
            bus := s.bus ++ [s.vecRecord a] }

/-- CALL (spec/43_handlers.md R211): the next instruction's address is pushed on the active stack. -/
def Obligations.CallPushesTheReturnAddress : Prop :=
  ∀ (s : State) (a : Long),
    exec (.call a) s =
      .next
        { (s.setReg .a7 (s.reg .a7 - 4)) with
          mem := memPutBE s.mem (s.reg .a7 - 4) 4 (s.nextPc 5)
          bus := s.bus ++ [s.writeRecord (s.reg .a7 - 4) 4 (s.nextPc 5)]
          pc := truncPc s.cfg a
          cycles := s.cycles + 4
          stepResult := true }

/-! ### Stack and moves -/

/-- PUSH.L D0 and PUSH.W SR (spec/43_handlers.md R205): A7 down by the count, the source's low bytes written
there, no flag changed. -/
def Obligations.PushWritesBelowTheStack : Prop :=
  ∀ s : State,
    exec .pushLD0 s =
      .next
        { (s.setReg .a7 (s.reg .a7 - 4)).retired 1 4 with
          mem := memPutBE s.mem (s.reg .a7 - 4) 4 s.d[0]
          bus := s.bus ++ [s.writeRecord (s.reg .a7 - 4) 4 s.d[0]] } ∧
    exec .pushWSr s =
      .next
        { (s.setReg .a7 (s.reg .a7 - 2)).retired 1 4 with
          mem := memPutBE s.mem (s.reg .a7 - 2) 2 (s.sr.pack.setWidth 32)
          bus := s.bus ++ [s.writeRecord (s.reg .a7 - 2) 2 (s.sr.pack.setWidth 32)] }

/-- PULL.L D5 and PULL.W SR (spec/43_handlers.md R206): the pop uses the stack selected before the write, and SR is
written through Unpack. -/
def Obligations.PullReadsTheStack : Prop :=
  ∀ s : State,
    exec .pullLD5 s =
      .next
        { (s.setReg .a7 (s.reg .a7 + 4)).retired 1 4 with
          d := s.d.set 5 (s.peek (s.reg .a7) 4)
          bus := s.bus ++ [s.readRecord (s.reg .a7) 4] } ∧
    exec .pullWSr s =
      .next
        { (s.setReg .a7 (s.reg .a7 + 2)).retired 1 4 with
          sr := SR.unpack ((s.peek (s.reg .a7) 2).setWidth 16)
          bus := s.bus ++ [s.readRecord (s.reg .a7) 2] }

/-- LOAD of an immediate or a register (spec/43_handlers.md R213): the destination's low bytes, N and Z from the
value; into SR, every field through Unpack and no SetNZ. -/
def Obligations.LoadsWithoutMemory : Prop :=
  ∀ s : State,
    (∀ v : Long,
      exec (.loadLImmD0 v) s = .next { s.retired 5 4 with d := s.d.set 0 v, sr := s.sr.withNZ v 4 } ∧
      exec (.loadLImmA0 v) s = .next { s.retired 5 4 with a := s.a.set 0 v, sr := s.sr.withNZ v 4 } ∧
      exec (.loadLImmA1 v) s = .next { s.retired 5 4 with a := s.a.set 1 v, sr := s.sr.withNZ v 4 }) ∧
    (∀ b : Byte,
      exec (.loadBImmD1 b) s =
        .next
          { s.retired 2 4 with
            d := s.d.set 1 ((s.d[1] &&& 0xFFFFFF00) ||| b.setWidth 32)
            sr := { s.sr with n := b.getLsbD 7, z := b == 0 } }) ∧
    exec .loadLD0D6 s = .next { s.retired 1 4 with d := s.d.set 6 s.d[0], sr := s.sr.withNZ s.d[0] 4 } ∧
    ∀ h : Half, exec (.loadWImmSr h) s = .next { s.retired 3 4 with sr := SR.unpack h }

/-- LOAD from memory (spec/43_handlers.md R213, 41_addressing.md R145-R154): each row's effective address, one read
of the row's width, the destination's low bytes, N and Z, and for (A0)+ the increment by 2. -/
def Obligations.LoadsFromMemory : Prop :=
  ∀ s : State,
    exec .loadWPostIncA0D0 s = .next { s.loaded 1 0 2 s.a[0] with a := s.a.set 0 (s.a[0] + 2) } ∧
    (∀ a : Long, exec (.loadLAbsLongD2 a) s = .next (s.loaded 5 2 4 a)) ∧
    (∀ b : Byte,
      exec (.loadLIndexedA0D1D3 b) s =
        .next (s.loaded 2 3 4 (s.a[0] + b.signExtend 32 + (s.d[1].setWidth 16).signExtend 32))) ∧
    (∀ h : Half, exec (.loadWPcDisp16D4 h) s = .next (s.loaded 3 4 2 (s.nextPc 3 + h.signExtend 32))) ∧
    exec .loadBIndirectA0D5 s = .next (s.loaded 1 5 1 s.a[0]) ∧
    (∀ b : Byte, exec (.loadWDisp8A0D7 b) s = .next (s.loaded 2 7 2 (s.a[0] + b.signExtend 32))) ∧
    ∀ b : Byte, exec (.loadLPcIndexedD1D2 b) s = .next (s.loaded 2 2 4 (s.nextPc 2 + b.signExtend 32 + s.d[1]))

/-- STORE (spec/43_handlers.md R214): the low bytes of D0 at each row's effective address, N and Z from them, and
for -(A1) the decrement by 4. -/
def Obligations.StoresToMemory : Prop :=
  ∀ s : State,
    exec .storeLD0PreDecA1 s =
      .next { s.stored 1 4 (s.a[1] - 4) s.d[0] with a := s.a.set 1 (s.a[1] - 4) } ∧
    (∀ h : Half,
      exec (.storeWD0Disp16A0 h) s = .next (s.stored 3 2 (s.a[0] + h.signExtend 32) (lowBytes 2 s.d[0]))) ∧
    ∀ h : Half, exec (.storeBD0AbsShort h) s = .next (s.stored 3 1 (h.signExtend 32) (lowBytes 1 s.d[0]))

/-! ### Errors -/

/-- The fatal errors of the table (spec/60_exceptions.md R301, R302; 43_handlers.md R201): PUSH with count 3 is
InvalidOperandWidth and an opcode of kind UNIMPL UnimplementedOpcode; the start state is kept, Halted and paused. -/
def Obligations.FatalErrors : Prop :=
  ∀ s : State,
    exec .pushD0Count3 s =
      .next
        (s.failed true
          { code := .invalidOperandWidth, instrAddr := some s.pc, faultAddr := none, opcode := some 0x22 }) ∧
    ∀ op : Byte,
      exec (.unimpl op) s =
        .next
          (s.failed true
            { code := .unimplementedOpcode, instrAddr := some s.pc, faultAddr := some s.pc, opcode := some op })

/-- All or nothing (spec/41_addressing.md R159, 42_engine.md R175, 60_exceptions.md R300): where an instruction
raises an error, every register, SR, pc, cycles and all of memory are as before the step, the processor is Halted
and paused, and the error names the instruction's address. -/
def Obligations.ErrorsRestoreTheState : Prop :=
  ∀ (i : Instr) (s t : State), exec i s = .next t → t.stepResult = false →
    ∃ e : ErrorRecord, t = { s.failed true e with bus := t.bus } ∧ e.instrAddr = some s.pc

/-! ### ROM rows outside the opcode table -/

/-- LOAD by any well-formed row (spec/43_handlers.md R213, 41_addressing.md R156, R158): with widths its registers
have, it completes: the operand is read with the pc at the next instruction, the pending update is committed, then
the action register's low bytes, over the upper bytes it had before the update, and N and Z unless it is SR. With an action or an operand register too narrow it
raises InvalidOperandWidth. -/
def Obligations.ConfiguredLoad : Prop :=
  ∀ (d : Descriptor) (sig : Long) (s : State) (r : Reg), d.failure = none → d.kind = .load →
    d.actionReg = some r →
    let n := { s with pc := s.nextPc d.length }
    (8 * d.w ≤ r.width → (∀ q, d.mode = .regDirect q → 8 * d.w ≤ q.width) →
      ∃ (v : Long) (m x : State), n.readOp (n.operand d sig) d.w = .ok (v, m) ∧
        x = (m.applyPending (n.pending d)).setReg r (patchLow d.w (s.reg r) v) ∧
        exec (.configured d sig) s =
          .next
            { x with
              sr := if r = .sr then x.sr else x.sr.withNZ v d.w
              cycles := s.cycles + BitVec.ofNat 64 d.cycles
              stepResult := true }) ∧
    (r.width < 8 * d.w ∨ (∃ q, d.mode = .regDirect q ∧ q.width < 8 * d.w) →
      ∃ b : List BusAccess,
        exec (.configured d sig) s =
          .next
            { s.failed true
                { code := .invalidOperandWidth, instrAddr := some s.pc, faultAddr := none
                  opcode := some d.opcode } with bus := b })

/-- STORE by any well-formed row (spec/43_handlers.md R214, 41_addressing.md R157, R158): with widths its registers
have, it completes: the action register's value is written to the operand after the pending update is committed, and
N and Z are set unless it is SR. With an action or an operand register too narrow it raises InvalidOperandWidth and
nothing is written. Whether a STORE whose mode is RegDirect(SR) writes SR through Unpack, R33 not listing it among
SR's writers, the spec leaves open between R214 and R33: `Config.storeWritesSr` is uninterpreted, and the statement holds
for either (log 21). -/
def Obligations.ConfiguredStore : Prop :=
  ∀ (d : Descriptor) (sig : Long) (s : State) (r : Reg), d.failure = none → d.kind = .store →
    d.actionReg = some r →
    let n := { s with pc := s.nextPc d.length }
    (8 * d.w ≤ r.width → (∀ q, d.mode = .regDirect q → 8 * d.w ≤ q.width) →
      ∃ x y : State,
        (n.applyPending (n.pending d)).writeOp (n.operand d sig) d.w (lowBytes d.w (s.reg r)) = .ok x ∧
        y = (if d.mode = .regDirect .sr ∧ Config.storeWritesSr = false then n else x) ∧
        exec (.configured d sig) s =
          .next
            { y with
              sr := if r = .sr then y.sr else y.sr.withNZ (s.reg r) d.w
              cycles := s.cycles + BitVec.ofNat 64 d.cycles
              stepResult := true }) ∧
    (r.width < 8 * d.w ∨ (∃ q, d.mode = .regDirect q ∧ q.width < 8 * d.w) →
      exec (.configured d sig) s =
        .next
          (s.failed true
            { code := .invalidOperandWidth, instrAddr := some s.pc, faultAddr := none, opcode := some d.opcode }))

/-- PUSH and PULL of an action register by any well-formed row (spec/43_handlers.md R205, R206): they complete for
a count in {1, 2, 4} that the register has, and raise InvalidOperandWidth otherwise. -/
def Obligations.ConfiguredPushAndPull : Prop :=
  ∀ (d : Descriptor) (sig : Long) (s : State) (r : Reg), d.failure = none → d.actionReg = some r →
    let n := { s with pc := s.nextPc d.length }
    let c := BitVec.ofNat 32 d.count
    ((d.count = 1 ∨ d.count = 2 ∨ d.count = 4) ∧ 8 * d.count ≤ r.width →
      (d.kind = .push →
        exec (.configured d sig) s =
          .next
            { n.setReg .a7 (s.reg .a7 - c) with
              mem := memPutBE s.mem (s.reg .a7 - c) d.count (lowBytes d.count (s.reg r))
              bus := s.bus ++ [s.writeRecord (s.reg .a7 - c) d.count (s.reg r)]
              cycles := s.cycles + BitVec.ofNat 64 d.cycles
              stepResult := true }) ∧
      (d.kind = .pull →
        let p := n.setReg .a7 (s.reg .a7 + c)
        exec (.configured d sig) s =
          .next
            { p.setReg r (patchLow d.count (p.reg r) (s.peek (s.reg .a7) d.count)) with
              bus := s.bus ++ [s.readRecord (s.reg .a7) d.count]
              cycles := s.cycles + BitVec.ofNat 64 d.cycles
              stepResult := true })) ∧
    (¬((d.count = 1 ∨ d.count = 2 ∨ d.count = 4) ∧ 8 * d.count ≤ r.width) → d.kind = .push ∨ d.kind = .pull →
      exec (.configured d sig) s =
        .next
          (s.failed true
            { code := .invalidOperandWidth, instrAddr := some s.pc, faultAddr := none, opcode := some d.opcode }))

/-- PUSH and PULL of a mode's operand by any well-formed row (spec/43_handlers.md R205, R206, 41_addressing.md R158):
PUSH reads the operand before anything is written and commits the mode's update, then writes below A7; PULL pops,
resolves with the popped A7 in sight and writes the operand last. With a count not in {1, 2, 4}, or an operand
register too narrow, they raise InvalidOperandWidth. Two points are the model's readings (DEDUCED): PULL resolves after
the pop (log 22), and a PUSH through a mode that updates A7 leaves A7 as the handler writes it (log 26). A PULL to
RegDirect(SR) writes SR through Unpack as 92 D49 rules for a PULL whose destination is SR, though R33's list names only
the action register (log 21). -/
def Obligations.ConfiguredPushAndPullByMode : Prop :=
  ∀ (d : Descriptor) (sig : Long) (s : State), d.failure = none → d.actionReg = none →
    let n := { s with pc := s.nextPc d.length }
    let a7 := s.reg .a7
    let c := BitVec.ofNat 32 d.count
    ((d.count = 1 ∨ d.count = 2 ∨ d.count = 4) → (∀ q, d.mode = .regDirect q → 8 * d.count ≤ q.width) →
      (d.kind = .push →
        ∃ (v : Long) (m : State), n.readOp (n.operand d sig) d.count = .ok (v, m) ∧
          exec (.configured d sig) s =
            .next
              { ((m.applyPending (n.pending d)).memWrite (a7 - c) d.count v).setReg .a7 (a7 - c) with
                cycles := s.cycles + BitVec.ofNat 64 d.cycles
                stepResult := true }) ∧
      (d.kind = .pull →
        let p := (n.didRead a7 d.count).setReg .a7 (a7 + c)
        ∃ x : State,
          (((n.didRead a7 d.count).applyPending (p.pending d)).setReg .a7 (a7 + c)).writeOp (p.operand d sig) d.count
            (s.peek a7 d.count) = .ok x ∧
          exec (.configured d sig) s =
            .next { x with cycles := s.cycles + BitVec.ofNat 64 d.cycles, stepResult := true })) ∧
    (¬(d.count = 1 ∨ d.count = 2 ∨ d.count = 4) ∨ (∃ q, d.mode = .regDirect q ∧ q.width < 8 * d.count) →
      d.kind = .push ∨ d.kind = .pull →
      ∃ b : List BusAccess,
        exec (.configured d sig) s =
          .next
            { s.failed true
                { code := .invalidOperandWidth, instrAddr := some s.pc, faultAddr := none
                  opcode := some d.opcode } with bus := b })

/-- The other kinds by any well-formed row (spec/43_handlers.md R202-R204, R207-R212): the table rows' effects with
the row's own length, cycles and field. -/
def Obligations.ConfiguredControl : Prop :=
  ∀ (d : Descriptor) (sig : Long) (s : State), d.failure = none →
    let done := fun t : State =>
      Host.Outcome.next (φ := Fault) (ρ := Refusal)
        { t with cycles := s.cycles + BitVec.ofNat 64 d.cycles, stepResult := true }
    let n := { s with pc := s.nextPc d.length }
    (d.kind = .brk → exec (.configured d sig) s = done (s.entered .brk (s.nextPc d.length))) ∧
    (d.kind = .cop → exec (.configured d sig) s = done (s.entered .cop (s.nextPc d.length))) ∧
    (d.kind = .stop → exec (.configured d sig) s = done { n with cpuState := .waiting }) ∧
    (d.kind = .rti ∨ d.kind = .ret → exec (.configured d sig) s = done s.popped) ∧
    (d.kind = .jmps →
      exec (.configured d sig) s =
        done { s with pc := truncPc s.cfg (((d.field sig).setWidth 16).signExtend 32) }) ∧
    (d.kind = .jmpl → exec (.configured d sig) s = done { s with pc := truncPc s.cfg (d.field sig) }) ∧
    (d.kind = .jmpv → exec (.configured d sig) s = done (s.jumpVector (d.field sig))) ∧
    (d.kind = .call →
      exec (.configured d sig) s =
        done
          { (s.setReg .a7 (s.reg .a7 - 4)) with
            mem := memPutBE s.mem (s.reg .a7 - 4) 4 (s.nextPc d.length)
            bus := s.bus ++ [s.writeRecord (s.reg .a7 - 4) 4 (s.nextPc d.length)]
            pc := truncPc s.cfg (d.field sig) })

/-- Kind OTHER (spec/43_handlers.md R215): without a handler the step is refused. With one it always has a next
state: when its run is done, what the run leaves, with the row's cycles charged; when the run reports an error, the
error alone, with no memory changed and no write on the bus (log 13, 20). The run performs the primitives in order, each
with its own effect, and commits (41_addressing.md R158): a register the handler writes keeps the handler's value, be
the write before or after the resolve, and never sees the update; any other takes the update. A handler without an
operation that can raise an error completes. -/
def Obligations.OtherHandlers : Prop :=
  ∀ (d : Descriptor) (sig : Long) (s : State), d.failure = none →
    ((∀ p ∈ s.cfg.others, p.1 ≠ d.opcode) → exec (.other d sig) s = .refused (.otherUndefined d.opcode)) ∧
    (∀ r : OtherRun, r.PrimitiveEffects d sig ∧ r.RunInOrder d sig) ∧
    ∀ (op : Byte) (prog : OtherProgram), (s.cfg.others.find? fun p => p.1 == d.opcode) = some (op, prog) →
      let n := { s with pc := s.nextPc d.length }
      let ended := OtherRun.run d sig 0 { state := n, vals := [], operand := .noOperand, overlay := none, written := [] } prog
      ((∃ t, ended = .done t ∧ t.cfg = s.cfg ∧
          exec (.other d sig) s =
            .next { t with cycles := s.cycles + BitVec.ofNat 64 d.cycles, stepResult := true }) ∨
        ∃ k t reads, ended = .raised k t ∧ (∀ b ∈ reads, b.isWrite = false) ∧
          exec (.other d sig) s =
            .next
              { s.failed true
                  { code := .invalidOperandWidth, instrAddr := some s.pc, faultAddr := none
                    opcode := some d.opcode } with bus := s.bus ++ reads }) ∧
      ((∀ o ∈ prog, o.mayRaise d = false) → prog.head? = some .resolve ∨ (∀ o ∈ prog, o.usesOperand = false) →
        ∃ t, exec (.other d sig) s = .next t ∧ t.stepResult = true ∧
          t.cycles = s.cycles + BitVec.ofNat 64 d.cycles) ∧
      ∀ (i : Fin 7) (w : Nat) (v : Long), d.mode = .postInc (.an i) → w = 1 ∨ w = 2 ∨ w = 4 →
        (prog = [.resolve] →
          ∃ t, exec (.other d sig) s = .next t ∧ t.a[i] = s.a[i] + BitVec.ofNat 32 d.w) ∧
        (prog = [.const v, .resolve, .writeReg (.a i) w 0] ∨ prog = [.const v, .writeReg (.a i) w 0, .resolve] →
          ∃ t, exec (.other d sig) s = .next t ∧ t.a[i] = patchLow w s.a[i] v)

/-! ### Frames and whole-machine rules -/

/-- Which bytes of memory the table's instructions change (spec/43_handlers.md R202-R214): the stores change the
bytes at their effective address only, the pushes those below the stack they push on, and every other instruction
none. -/
def Obligations.MemoryFrame : Prop :=
  ∀ (s t : State) (b : Long),
    (exec .storeLD0PreDecA1 s = .next t → (∀ i < 4, b ≠ s.a[1] - 4 + BitVec.ofNat 32 i) →
      t.readByte b = s.readByte b) ∧
    (∀ h : Half, exec (.storeWD0Disp16A0 h) s = .next t →
      (∀ i < 2, b ≠ s.a[0] + h.signExtend 32 + BitVec.ofNat 32 i) → t.readByte b = s.readByte b) ∧
    (∀ h : Half, exec (.storeBD0AbsShort h) s = .next t → b ≠ h.signExtend 32 → t.readByte b = s.readByte b) ∧
    (∀ i : Instr, i = .pushLD0 ∨ (∃ a, i = .call a) → exec i s = .next t →
      (∀ k < 4, b ≠ s.reg .a7 - 4 + BitVec.ofNat 32 k) → t.readByte b = s.readByte b) ∧
    (exec .pushWSr s = .next t → (∀ k < 2, b ≠ s.reg .a7 - 2 + BitVec.ofNat 32 k) →
      t.readByte b = s.readByte b) ∧
    (∀ i : Instr, i = .brk ∨ i = .cop → exec i s = .next t →
      (∀ k < 4, b ≠ s.ssp - 4 + BitVec.ofNat 32 k) → t.readByte b = s.readByte b) ∧
    ∀ i : Instr,
      i.descriptor.kind ∈ [Kind.stop, .rti, .jmps, .jmpl, .jmpv, .ret, .load, .pull, .unimpl] →
      (∀ d g, i ≠ .configured d g ∧ i ≠ .other d g) → exec i s = .next t → t.readByte b = s.readByte b

/-- Which registers the table's instructions change (spec/43_handlers.md R202-R214): the data and address
registers, by kind. A jump, return, push or trap changes none; a load changes its destination and the register of
(A0)+; a store the register of -(A1); a pull its destination. A stack instruction changes the active stack pointer
only, a trap entry SSP only, and every other instruction neither. -/
def Obligations.RegisterFrame : Prop :=
  ∀ (i : Instr) (s t : State), exec i s = .next t → (∀ d g, i ≠ .configured d g ∧ i ≠ .other d g) →
    (∀ k : Fin 8, i.descriptor.actionReg ≠ some (.d k) ∨ i.descriptor.kind = .store ∨ i.descriptor.kind = .push →
      t.d[k] = s.d[k]) ∧
    (∀ k : Fin 7,
      i.descriptor.actionReg ≠ some (.a k) → i.descriptor.mode ≠ .postInc (.an k) →
      i.descriptor.mode ≠ .preDec (.an k) → t.a[k] = s.a[k]) ∧
    (i.descriptor.kind ∉ [Kind.push, .pull, .rti, .call, .ret, .brk, .cop] → t.usp = s.usp ∧ t.ssp = s.ssp) ∧
    (i = .brk ∨ i = .cop → t.usp = s.usp) ∧
    (i.descriptor.kind ∈ [Kind.push, .pull, .rti, .call, .ret] →
      (s.sr.s = true → t.usp = s.usp) ∧ (s.sr.s = false → t.ssp = s.ssp))

/-- Which flags the table's instructions change (spec/10_state.md R33): only a trap entry, a LOAD or PULL into SR
writes anything but N and Z, and only a LOAD or STORE writes those. -/
def Obligations.FlagFrame : Prop :=
  ∀ (i : Instr) (s t : State), exec i s = .next t → (∀ d g, i ≠ .configured d g ∧ i ≠ .other d g) →
    (i.descriptor.kind = .load ∨ i.descriptor.kind = .store → i.descriptor.actionReg ≠ some .sr →
      t.sr = { s.sr with n := t.sr.n, z := t.sr.z }) ∧
    (i.descriptor.kind ∉ [Kind.load, .store, .brk, .cop] → i ≠ .pullWSr → t.sr = s.sr) ∧
    (i = .brk ∨ i = .cop → t.sr = { s.sr with s := true, t1 := false, t0 := false })

/-- A committed instruction adds its row's cycles, an errored one none (spec/42_engine.md R174). -/
def Obligations.CycleAccounting : Prop :=
  ∀ (i : Instr) (s t : State), exec i s = .next t →
    (t.stepResult = true → t.cycles = s.cycles + BitVec.ofNat 64 i.descriptor.cycles) ∧
    (t.stepResult = false → t.cycles = s.cycles)

/-- What no instruction changes but by the rule that names it (spec/10_state.md R36-R50, 42_engine.md R175): the
configuration, the debugger's data and lastDecoded never; where it commits, not the error record, the pause flag,
the ephemeral breakpoint or an input pin, and cpuState only by STOP, BRK, COP or an OTHER handler. -/
def Obligations.ControlStateFrame : Prop :=
  ∀ (i : Instr) (s t : State), exec i s = .next t →
    (t.cfg = s.cfg ∧ t.lastDecoded = s.lastDecoded ∧ t.breakpoints = s.breakpoints ∧
      t.watchInterrupts = s.watchInterrupts ∧ t.watchedCats = s.watchedCats ∧ t.lineCache = s.lineCache ∧
      t.lastHit = s.lastHit ∧ t.resetDone = s.resetDone ∧ t.reply = s.reply ∧ t.schedule = s.schedule) ∧
    (t.stepResult = true →
      t.lastError = s.lastError ∧ t.pauseFlag = s.pauseFlag ∧ t.ephemeral = s.ephemeral ∧
      t.pins = { s.pins with vectorPull := t.pins.vectorPull } ∧
      (i.descriptor.kind ∉ [Kind.stop, .brk, .cop, .other] → (∀ d g, i ≠ .other d g) → t.cpuState = s.cpuState))

/-- No step writes the configuration, the ROM among it (spec/10_state.md R51, 30_encoding.md R90). -/
def Obligations.ConfigurationIsNeverWritten : Prop := ∀ s t : State, step s = .next t → t.cfg = s.cfg

/-- A program cannot observe the debugger (spec/60_exceptions.md R314, 20_memory.md R79): with other breakpoints,
another ephemeral breakpoint, other watch settings, last hit and line cache, and paused or not, an instruction does the
same; it leaves all of those as they are, but that an error pauses and removes the ephemeral breakpoint (R300). -/
def Obligations.DebuggerIsUnobservable : Prop :=
  ∀ (i : Instr) (s : State) (bs : List (Long × String)) (eph : Option Long) (paused on : Bool) (cats : PinSet)
    (ls : List DebugLine) (hit : Option (HitReason × Long)),
    let other := fun t : State =>
      { t with breakpoints := bs, watchInterrupts := on, watchedCats := cats, lineCache := ls, lastHit := hit }
    exec i { other s with ephemeral := eph, pauseFlag := paused } =
      andThen (exec i s) fun t =>
        if t.stepResult = true then { other t with ephemeral := eph, pauseFlag := paused } else other t

/-! ### The step -/

/-- A step runs the decoded instruction (spec/42_engine.md R170-R173): where the bytes at the pc decode to an
instruction, the step is its execution on the state after the fetch, followed in free-run by the worker's hit
test. That after an error, which pauses, the refresh of every pause follows there (44_debugger.md R265, 92 D37) is the
model's reading (log 32, DEDUCED). The fetch reads the opcode byte and the signature bytes, one access each, and writes lastDecoded. -/
def Obligations.StepRunsTheDecodedInstruction : Prop :=
  ∀ (s : State) (rest : List Move) (i : Instr) (k : Nat), s.EngineTurn rest → s.Fetches →
    (∀ a ∈ s.pc :: sigAddrs s.pc k, a.toNat < s.cfg.memLimit) →
    decode s.cfg.rom (s.readByte s.pc :: (sigAddrs s.pc k).map s.readByte) = .ok (i, []) →
    let fetched :=
      { s with
        bus := (s.pc :: sigAddrs s.pc k).map fun a => s.readRecord a 1
        reply := none
        schedule := rest
        lastDecoded := some
          { address := s.pc, opcode := s.readByte s.pc, mnemonic := (s.cfg.rom.row (s.readByte s.pc)).mnemonic } }
    step s = if s.pauseFlag = true then exec i fetched else andThen (exec i fetched) State.afterStep

/-- The pin a step services (spec/60_exceptions.md R283): RESET, ABORT, NMI, then an IRQ with SR.I below
IRQ_LEVEL. -/
def Obligations.PinPriority : Prop :=
  ∀ s : State,
    (s.select = some .reset ↔ s.pins.reset = true) ∧
    (s.select = some (.trap .abort) ↔ s.pins.reset = false ∧ s.pins.abort = true) ∧
    (s.select = some (.trap .nmi) ↔ s.pins.reset = false ∧ s.pins.abort = false ∧ s.pins.nmi = true) ∧
    (s.select = some (.trap .irq) ↔
      s.pins.reset = false ∧ s.pins.abort = false ∧ s.pins.nmi = false ∧ s.pins.irq = true ∧
        s.sr.i.toNat < s.cfg.irqLevel.toNat) ∧
    (s.select = none ↔
      s.pins.reset = false ∧ s.pins.abort = false ∧ s.pins.nmi = false ∧
        ¬(s.pins.irq = true ∧ s.sr.i.toNat < s.cfg.irqLevel.toNat))

/-- A step that services a pin (spec/60_exceptions.md R284): entry through the pin's vector with the pc at the next
instruction to execute, the one pin cleared, INT_CYCLES charged; no instruction executes. In free-run the worker's hit
test follows (42_engine.md R184). -/
def Obligations.PinServiceConsumesTheStep : Prop :=
  ∀ (s : State) (rest : List Move) (t : Trap), s.EngineTurn rest → s.cpuState ≠ .halted → s.pins.ready = true →
    s.select = some (.trap t) →
    let e := { s with bus := [], reply := none, schedule := rest }.entered t s.pc
    let served :=
      { e with
        pins := { e.pins with
          irq := if t = .irq then false else s.pins.irq
          nmi := if t = .nmi then false else s.pins.nmi
          abort := if t = .abort then false else s.pins.abort }
        cycles := s.cycles + BitVec.ofNat 64 s.cfg.intCycles
        stepResult := true }
    step s = .next (if s.pauseFlag = true then served else served.hitTest)

/-- Reset (spec/70_reset_and_hazards.md R320, R321): every element it sets, from any state; and a step that finds
the RESET pin active performs it, with nothing pushed and no cycles added, followed in free-run by the hit test. -/
def Obligations.ResetEffect : Prop :=
  (∀ s : State,
    s.performReset =
      { s with
        d := Vector.replicate 8 0
        a := Vector.replicate 7 0
        usp := s.cfg.spReset
        ssp := s.cfg.spReset
        sr := SR.unpack 0
        pc := truncPc s.cfg (s.peek 0x00FFFFF0 4)
        cpuState := .ready
        cycles := 0
        lastDecoded := none
        lastError := none
        ephemeral := none
        lastHit := none
        pins := { s.pins with reset := false, vectorPull := false }
        bus := s.bus ++ [s.vecRecord 0x00FFFFF0]
        resetDone := true }) ∧
  ∀ (s : State) (rest : List Move), s.EngineTurn rest → s.cpuState ≠ .halted → s.pins.ready = true →
    s.pins.reset = true →
    let t := { { s with bus := [], reply := none, schedule := rest }.performReset with stepResult := true }
    step s = .next (if s.pauseFlag = true then t else t.hitTest)

/-- Skipped steps (spec/42_engine.md R177-R179): READY low, or Waiting with no pin to service, adds WAIT_CYCLES = 1
and changes nothing else; Halted changes nothing. -/
def Obligations.SkippedSteps : Prop :=
  ∀ (s : State) (rest : List Move), s.EngineTurn rest →
    let skipped :=
      { s with bus := [], reply := none, schedule := rest, cycles := s.cycles + 1, stepResult := false }
    (s.cpuState ≠ .halted → s.pins.ready = false → step s = .next skipped) ∧
    (s.cpuState = .waiting → s.pins.ready = true → s.select = none → step s = .next skipped) ∧
    (s.cpuState = .halted →
      step s = .next { s with bus := [], reply := none, schedule := rest, stepResult := false })

/-- Before the first Reset a step is refused (spec/10_state.md R56): the engine's move, and the host's ExecuteNext, Step,
and StepOver where it is a Step (44_debugger.md R253). The host's Reset and the loader's WriteByte act, which is how a
machine comes to its first Reset (70_reset_and_hazards.md R324; log 28). -/
def Obligations.StepsBeforeTheFirstResetAreRefused : Prop :=
  ∀ (s : State) (rest : List Move), s.resetDone = false → Config.failure vecReset s.cfg = none →
    let n := { s with bus := [], reply := none, schedule := rest }
    (s.schedule = [] ∨ s.schedule = .engine :: rest → step s = .refused .beforeFirstReset) ∧
    (s.schedule = .host .executeNext :: rest → s.pauseFlag = true → step s = .refused .beforeFirstReset) ∧
    (s.schedule = .host .step :: rest → step s = .refused .beforeFirstReset) ∧
    (s.schedule = .host .stepOver :: rest →
      (∀ r, s.decodeAt s.pc = some r → r.truncated = true ∨ r.descriptor.stepOver = false) ∨ s.cpuState = .halted →
      step s = .refused .beforeFirstReset) ∧
    (s.schedule = .host .reset :: rest → s.pauseFlag = true → step s = .next n.performReset) ∧
    ∀ a v, s.schedule = .host (.writeByte a v) :: rest → s.pauseFlag = true →
      step s = .next { n with mem := memPut s.mem a.toNat v }

/-- OutOfRangeProgramCounter (spec/42_engine.md R171, 60_exceptions.md R303): an opcode byte at or above MEM_LIMIT
is not read, and the step pauses with the last decoded address and the pc recorded; a signature byte at or above
it records the instruction's address, the first such address and the opcode. cpuState, registers, pc and memory
are unchanged. That in free-run the refresh of every pause follows the error (44_debugger.md R265, 92 D37), which R171
does not say, is the model's reading (log 32, DEDUCED). -/
def Obligations.OutOfRangePauses : Prop :=
  ∀ (s : State) (rest : List Move), s.EngineTurn rest → s.Fetches →
    let paused := fun t : State => Host.Outcome.next (φ := Fault) (ρ := Refusal) (if s.pauseFlag = true then t else t.refresh)
    (s.cfg.memLimit ≤ s.pc.toNat →
      step s =
        paused
          ({ s with bus := [], reply := none, schedule := rest }.failed false
            { code := .outOfRangeProgramCounter, instrAddr := s.lastDecoded.map LastDecoded.address
              faultAddr := some s.pc, opcode := none })) ∧
    (∀ (k : Nat) (f : Long), s.pc.toNat < s.cfg.memLimit →
      let d := s.cfg.rom.row (s.readByte s.pc)
      d.kind ≠ .unimpl → k < d.length - 1 → f = s.pc + BitVec.ofNat 32 (k + 1) →
      s.cfg.memLimit ≤ f.toNat → (∀ j < k, (s.pc + BitVec.ofNat 32 (j + 1)).toNat < s.cfg.memLimit) →
      step s =
        paused
          ({ s with
              bus := [s.readRecord s.pc 1], reply := none, schedule := rest
              lastDecoded := some
                { address := s.pc, opcode := s.readByte s.pc, mnemonic := d.mnemonic } }.failed false
            { code := .outOfRangeProgramCounter, instrAddr := some s.pc, faultAddr := some f
              opcode := some (s.readByte s.pc) }))

/-- Only a serviced interrupt leaves Waiting in a step of the engine, by an empty schedule or a scheduled move of its own
(spec/42_engine.md R178, 60_exceptions.md R315; log 4, 5). -/
def Obligations.OnlyAServicedPinLeavesWaiting : Prop :=
  ∀ s t : State, s.schedule = [] ∨ (∃ rest, s.schedule = .engine :: rest) → s.cpuState = .waiting →
    step s = .next t → t.cpuState ≠ .waiting →
    s.pins.ready = true ∧ ∃ v, s.select = some v

/-- Only the host's Reset leaves Halted (spec/42_engine.md R179, 60_exceptions.md R315). -/
def Obligations.OnlyTheHostsResetLeavesHalted : Prop :=
  ∀ s t : State, s.cpuState = .halted → step s = .next t → t.cpuState ≠ .halted →
    ∃ rest, s.schedule = .host .reset :: rest

/-! ### Invariants -/

/-- The pc stays below 2^PC_BITS (spec/10_state.md R25). -/
def Obligations.PcStaysInRange : Prop := ∀ s t : State, s.PcInRange → step s = .next t → t.PcInRange

/-- The memory keeps its canonical form (log 2). -/
def Obligations.MemoryStaysCanonical : Prop :=
  ∀ s t : State, s.MemCanonical → step s = .next t → t.MemCanonical

/-- VECTOR_PULL is low between moves (spec/20_memory.md R63), no ephemeral breakpoint stands while paused
(44_debugger.md R261), and Halted is always paused (10_state.md R41). -/
def Obligations.PinsAndPauseFlagsStayConsistent : Prop :=
  ∀ s t : State, s.VectorPullLow → s.EphemeralOnlyRunning → s.HaltedIsPaused → step s = .next t →
    t.VectorPullLow ∧ t.EphemeralOnlyRunning ∧ t.HaltedIsPaused

/-- The breakpoints keep unique addresses (spec/10_state.md R46) and the line cache stays in increasing address order
with one line an address (R49). That the breakpoint map too is kept in address order is the model's choice of one form
for it, not R46's (log 25, DESIGN CHOICE). -/
def Obligations.DebuggerMapsStayOrdered : Prop :=
  ∀ s t : State, s.BreakpointsOrdered → s.LinesOrdered → step s = .next t →
    t.BreakpointsOrdered ∧ t.LinesOrdered

/-- The state after reset meets every invariant and is what Reset leaves of a machine before its first Reset with
an empty memory (spec/10_state.md R55, R56), and its configuration passes the checks of construction
(30_encoding.md R100); the reference instance, idle pins and an empty memory are the model's choice (log 1, 2, 9). -/
def Obligations.ResetStateMeetsTheInvariant : Prop :=
  State.reset.Inv ∧ (State.powerOn configP0 []).performReset = State.reset ∧
    Config.failure vecReset State.reset.cfg = none

/-! ### The debugger -/

/-- The reasons of the hit test and its effect (spec/44_debugger.md R258). -/
def Obligations.HitTestReasons : Prop :=
  ∀ s : State,
    (s.pauseFlag = true → s.hitTest = s) ∧
    (s.ephemeral = some s.pc → s.hitReason = some .stepOver) ∧
    (s.ephemeral ≠ some s.pc → (∃ l, (s.pc, l) ∈ s.breakpoints) → s.hitReason = some .breakpoint) ∧
    (s.ephemeral ≠ some s.pc → (∀ l, (s.pc, l) ∉ s.breakpoints) → s.pc.toNat < s.cfg.memLimit →
      s.readByte s.pc = 0 → s.hitReason = some .brkOpcode) ∧
    (s.ephemeral ≠ some s.pc → (∀ l, (s.pc, l) ∉ s.breakpoints) →
      (s.cfg.memLimit ≤ s.pc.toNat ∨ s.readByte s.pc ≠ 0) →
      s.hitReason =
        if s.watchInterrupts = true ∧
            (s.watchedCats.irq = true ∧ s.pins.irq = true ∨ s.watchedCats.nmi = true ∧ s.pins.nmi = true ∨
              s.watchedCats.abort = true ∧ s.pins.abort = true ∨ s.watchedCats.reset = true ∧ s.pins.reset = true)
        then some .interrupt else none) ∧
    (s.pauseFlag = false → s.hitReason = none → s.hitTest = s) ∧
    ∀ r, s.pauseFlag = false → s.hitReason = some r →
      s.hitTest = { s with pauseFlag := true, ephemeral := none, lastHit := some (r, s.pc) }.refresh

/-- Decode(a) and PreFetch() (spec/42_engine.md R183): none at or above MEM_LIMIT; else the record of the row, with
its first k bytes, k the number of its L byte addresses below MEM_LIMIT, the signature of the bytes read, and truncated
exactly when k < L; and as host commands they change nothing but the answer the host gets. That the addresses a+k are
taken mod 2^32 is the model's reading (log 19, DEDUCED). -/
def Obligations.DecodeIsWithoutSideEffects : Prop :=
  ∀ (s : State) (a : Long),
    (s.cfg.memLimit ≤ a.toNat → s.decodeAt a = none) ∧
    (a.toNat < s.cfg.memLimit →
      let d := s.cfg.rom.row (s.readByte a)
      let k := ((List.range d.length).filter fun j => decide ((a + BitVec.ofNat 32 j).toNat < s.cfg.memLimit)).length
      d.failure = none →
      s.decodeAt a =
        some
          { address := a, opcode := s.readByte a, descriptor := d, length := d.length, bytes := s.bytesAt a k
            sig := sigOf (s.bytesAt (a + 1) (k - 1)), implemented := decide (d.kind ≠ .unimpl)
            truncated := decide (k < d.length) } ∧
      (k < d.length ↔ ∃ j < d.length, s.cfg.memLimit ≤ (a + BitVec.ofNat 32 j).toNat)) ∧
    (s.pauseFlag = true → Config.failure vecReset s.cfg = none → ∀ rest,
      let n := { s with bus := [], reply := none, schedule := rest }
      (s.schedule = .host (.decode a) :: rest →
        step s = .next { n with reply := some (.decoded (s.decodeAt a)) }) ∧
      (s.schedule = .host .preFetch :: rest →
        step s = .next { n with reply := some (.decoded (s.decodeAt s.pc)) }))

/-- ExecuteCycles(n) (spec/42_engine.md R184): it returns at once when the counter has reached n, when paused and when
Halted; and while READY is low or the processor waits with no pin to service, it ends with the counter at n. -/
def Obligations.ExecuteCyclesEnds : Prop :=
  ∀ (n : BitVec 64) (fuel : Nat) (s : State),
    (n ≤ s.cycles ∨ s.pauseFlag = true ∨ s.cpuState = .halted → executeCycles n fuel s = .next s) ∧
    (s.resetDone = true → s.cycles < n → s.pauseFlag = false → s.cpuState ≠ .halted → n.toNat - s.cycles.toNat ≤ fuel →
      s.pins.ready = false ∨ (s.cpuState = .waiting ∧ s.select = none) →
      executeCycles n fuel s = .next { s with cycles := n, stepResult := false })

/-- The breakpoint map (spec/44_debugger.md R256, R257, R260): after an add the address has that label and every
other address is as before; after a remove the address is no key and the others are as before; and removing the
one breakpoint added to an empty map leaves it empty. AddBreakpoint, RemoveBreakpoint and SetInterruptWatch (R259)
begin with Pause and change nothing else. -/
def Obligations.BreakpointMap : Prop :=
  (∀ (bs : List (Long × String)) (a b : Long) (l m : String), rising (bs.map Prod.fst) = true →
    ((b, m) ∈ putBreakpoint a l bs ↔ (b = a ∧ m = l) ∨ (b ≠ a ∧ (b, m) ∈ bs)) ∧
    ((b, m) ∈ dropBreakpoint a bs ↔ b ≠ a ∧ (b, m) ∈ bs) ∧
    dropBreakpoint a (putBreakpoint a l []) = []) ∧
  ∀ (s : State) (a : Long) (l : String) (on : Bool) (cats : PinSet),
    let p := { s with pauseFlag := true, ephemeral := none }.refresh
    s.addBreakpoint a l = { p with breakpoints := putBreakpoint a l s.breakpoints } ∧
    s.removeBreakpoint a = { p with breakpoints := dropBreakpoint a s.breakpoints } ∧
    s.setInterruptWatch on cats = { p with watchInterrupts := on, watchedCats := cats }

/-- Run, Pause and Halt (spec/44_debugger.md R254, R255, 42_engine.md R185): Pause sets the flag, removes the ephemeral
breakpoint and refreshes the line cache, and changes nothing else; Halt is R185's. The two hostHalt clauses are the
model's reading (log 17, DEDUCED): as a command in free-run Halt first performs Pause, with its refresh (R266, 92 D41),
which R185 does not say. -/
def Obligations.RunPauseHalt : Prop :=
  ∀ s : State,
    (s.pauseFlag = true → s.cpuState ≠ .halted → s.run = { s with pauseFlag := false }) ∧
    (s.pauseFlag = true → s.cpuState = .halted → s.run = s) ∧
    (s.pauseFlag = false → s.run = s) ∧
    s.pause = { s with pauseFlag := true, ephemeral := none }.refresh ∧
    s.pause = { s with pauseFlag := true, ephemeral := none, lineCache := s.pause.lineCache } ∧
    s.halt = { s with cpuState := .halted, pauseFlag := true, ephemeral := none } ∧
    (s.pauseFlag = true → s.hostHalt = s.halt) ∧
    (s.pauseFlag = false → s.hostHalt = { s.halt with lineCache := s.pause.lineCache })

/-- Step and StepOver (spec/44_debugger.md R250, R252, R253): Step pauses, does one ExecuteNext and refreshes. For an
eligible instruction StepOver installs the ephemeral breakpoint at the pc plus the instruction's length and starts
free-run; otherwise it behaves like Step. -/
def Obligations.StepOverInstallsTheEphemeralBreakpoint : Prop :=
  ∀ s : State,
    (∀ t, { s with pauseFlag := true, ephemeral := none }.refresh.executeNext = .next t →
      s.debugStep = .next t.refresh) ∧
    (∀ r : DecodeRecord, s.decodeAt s.pc = some r → r.truncated = false → r.descriptor.stepOver = true →
      s.cpuState ≠ .halted →
      s.debugStepOver =
        .next { s.pause with ephemeral := some (s.nextPc r.length), pauseFlag := false }) ∧
    ((∀ r : DecodeRecord, s.decodeAt s.pc = some r → r.truncated = true ∨ r.descriptor.stepOver = false) ∨
        s.cpuState = .halted →
      s.debugStepOver = s.debugStep)

/-- The line cache (spec/44_debugger.md R262-R265, R268): GetLine keeps a cached line, inserts for an absent one the
line of its decode record, not stale, and inserts nothing at or above MEM_LIMIT; Revalidate marks a line stale exactly
when memory differs from its bytes, and changes nothing else; refresh is GetLine at the pc and Revalidate;
InvalidateLines and ClearLines pause and remove the lines in the range, or all. A truncated line's step-over flag is
the descriptor's, as R262's list has it: the model's choice against R252 (log 31). -/
def Obligations.LineCacheCommands : Prop :=
  ∀ (s : State) (a : Long),
    (∀ l ∈ s.lineCache, l.address = a → s.cacheLine a = s) ∧
    (s.cfg.memLimit ≤ a.toNat → s.cacheLine a = s) ∧
    (∀ r, (∀ l ∈ s.lineCache, l.address ≠ a) → s.decodeAt a = some r →
      let l : DebugLine :=
        { address := a, bytes := r.bytes, length := r.length, mnemonic := r.descriptor.mnemonic
          text := Config.render r, stepOver := r.descriptor.stepOver, implemented := r.implemented, stale := false }
      s.cacheLine a = { s with lineCache := insertLine l s.lineCache } ∧
        ∀ k, k ∈ (s.cacheLine a).lineCache ↔ k = l ∨ k ∈ s.lineCache) ∧
    s.revalidate =
      { s with
        lineCache := s.lineCache.map fun l =>
          { l with stale := decide (s.bytesAt l.address l.bytes.length ≠ l.bytes) } } ∧
    s.refresh = (s.cacheLine s.pc).revalidate ∧
    (∀ (hi : Long) (l : DebugLine), l ∈ (s.invalidateLines a hi).lineCache ↔
      l ∈ s.pause.lineCache ∧ ¬(a.toNat ≤ l.address.toNat ∧ l.address.toNat ≤ hi.toNat)) ∧
    (∀ hi : Long, s.invalidateLines a hi = { s.pause with lineCache := (s.invalidateLines a hi).lineCache }) ∧
    s.clearLines = { s.pause with lineCache := [] }

/-- The moves of host and devices (spec/42_engine.md R188, 70_reset_and_hazards.md R333, 44_debugger.md R266, 10_state.md
R36, R37), before the first Reset as after it (log 28): a device sets one input pin to a level; in free-run a
host command that reads or writes registers, memory or pc has no move. While paused the machine commands have their
effects and answers, Snapshot the record of R186. The debugger's commands, which begin with Pause, and Run and Halt have theirs paused or not. Two points are
the model's readings: which commands act in free-run rather than being refused, and that Halt there first performs Pause
with its refresh (log 17, DEDUCED); and that the status which comes back is the boolean of the last ExecuteNext, false
before the first one (42_engine.md R176; log 7, DESIGN CHOICE). -/
def Obligations.HostCommandsNeedThePause : Prop :=
  ∀ (s : State) (rest : List Move), Config.failure vecReset s.cfg = none →
    let n := { s with bus := [], reply := none, schedule := rest }
    let status := fun t : State =>
      Host.Outcome.next (φ := Fault) (ρ := Refusal) { t with reply := some (.status t.stepResult) }
    (∀ p level, s.schedule = .device p level :: rest →
      step s =
        .next
          { n with
            pins :=
              { irq := if p = .irq then level else s.pins.irq
                nmi := if p = .nmi then level else s.pins.nmi
                abort := if p = .abort then level else s.pins.abort
                reset := if p = .reset then level else s.pins.reset
                ready := if p = .ready then level else s.pins.ready
                vectorPull := s.pins.vectorPull } }) ∧
    ∀ c : HostCommand, s.schedule = .host c :: rest →
    (s.pauseFlag = false → c.needsPaused = true → step s = .refused .hostAccessWhileRunning) ∧
    (s.pauseFlag = true →
      (∀ t, c = .executeNext → n.executeNext = .next t → step s = status t) ∧
      (∀ m, c = .executeCycles m → step s = .next n) ∧
      (c = .reset → step s = .next n.performReset) ∧
      (c = .resetCycles → step s = .next { n with cycles := 0 }) ∧
      (c = .preFetch → step s = .next { n with reply := some (.decoded (s.decodeAt s.pc)) }) ∧
      (∀ a, c = .decode a → step s = .next { n with reply := some (.decoded (s.decodeAt a)) }) ∧
      (c = .snapshot →
        step s =
          .next
            { n with
              reply := some (.snapshot
                { d := s.d, a := s.a, a7 := if s.sr.s = true then s.ssp else s.usp, usp := s.usp, ssp := s.ssp
                  sr := s.sr.pack, pc := s.pc, cpuState := s.cpuState, pauseFlag := true, cycles := s.cycles }) }) ∧
      (∀ a, c = .jumpShort a → step s = .next { n with pc := truncPc s.cfg (a.signExtend 32) }) ∧
      (∀ a, c = .jumpLong a → step s = .next { n with pc := truncPc s.cfg a }) ∧
      (∀ a, c = .jumpVector a →
        step s =
          .next
            { n with
              pc := truncPc s.cfg (s.peek a 4)
              pins := { s.pins with vectorPull := false }
              bus := [s.vecRecord a] }) ∧
      (∀ a v, c = .writeByte a v → step s = .next { n with mem := memPut s.mem a.toNat v }) ∧
      (∀ a, c = .getLine a →
        step s = .next { n.cacheLine a with reply := some (.line (findLine (s.cacheLine a).lineCache a)) }) ∧
      (c = .revalidate → step s = status n.revalidate)) ∧
    (∀ t, c = .step → n.debugStep = .next t → step s = status t) ∧
    (∀ t, c = .stepOver → n.debugStepOver = .next t → step s = status t) ∧
    (c = .run → step s = status n.run) ∧
    (c = .pause → step s = status n.pause) ∧
    (c = .halt → step s = .next n.hostHalt) ∧
    (∀ a l, c = .addBreakpoint a l → step s = status (n.addBreakpoint a l)) ∧
    (∀ a, c = .removeBreakpoint a → step s = status (n.removeBreakpoint a)) ∧
    (∀ on cats, c = .setInterruptWatch on cats → step s = status (n.setInterruptWatch on cats)) ∧
    (∀ lo hi, c = .invalidateLines lo hi → step s = status (n.invalidateLines lo hi)) ∧
    (c = .clearLines → step s = status n.clearLines)
end

