-- ==== Sys2Proof/Laws/Bits.lean ====
section
/-! SUPPORT. The laws of the byte-order and bit-field helpers: `lowBytes`, `patchLow`, `bytesBE`, `sigOf`. -/

namespace Sys2Proof

/-- `lowBytes` is the value mod 2^(8n). -/
theorem lowBytes_toNat {n : Nat} (hn : n ≤ 4) (v : Long) : (lowBytes n v).toNat = v.toNat % 2 ^ (8 * n) := by
  have h : n = 0 ∨ n = 1 ∨ n = 2 ∨ n = 3 ∨ n = 4 := by omega
  rcases h with rfl | rfl | rfl | rfl | rfl <;> simp only [lowBytes, BitVec.toNat_and, BitVec.toNat_ofNat]
  · simp [Nat.mod_one]
  · exact Nat.and_two_pow_sub_one_eq_mod _ 8
  · exact Nat.and_two_pow_sub_one_eq_mod _ 16
  · exact Nat.and_two_pow_sub_one_eq_mod _ 24
  · exact Nat.and_two_pow_sub_one_eq_mod _ 32

theorem lowBytes_eq_self {n : Nat} (hn : n ≤ 4) {v : Long} (h : v.toNat < 2 ^ (8 * n)) : lowBytes n v = v :=
  BitVec.eq_of_toNat_eq (by rw [lowBytes_toNat hn, Nat.mod_eq_of_lt h])

@[simp] theorem lowBytes_four (v : Long) : lowBytes 4 v = v := lowBytes_eq_self (Nat.le_refl 4) v.isLt

@[simp] theorem lowBytes_lowBytes {n : Nat} (hn : n ≤ 4) (v : Long) : lowBytes n (lowBytes n v) = lowBytes n v := by
  apply lowBytes_eq_self hn
  rw [lowBytes_toNat hn]
  exact Nat.mod_lt _ (Nat.two_pow_pos _)

/-! ### Byte sequences -/

/-- Shifting in one byte, as arithmetic. -/
theorem shiftIn_toNat (acc : Long) (b : Byte) (h : acc.toNat < 2 ^ 24) :
    ((acc <<< 8) ||| b.setWidth 32).toNat = acc.toNat * 256 + b.toNat := by
  have hb : b.toNat < 256 := b.isLt
  have e : acc.toNat <<< 8 % 2 ^ 32 = 2 ^ 8 * acc.toNat := by
    rw [Nat.shiftLeft_eq, Nat.mul_comm, Nat.mod_eq_of_lt (by omega)]
  simp only [BitVec.toNat_or, BitVec.toNat_shiftLeft, BitVec.toNat_setWidth]
  rw [e, Nat.mod_eq_of_lt (by omega), ← Nat.two_pow_add_eq_or_of_lt (i := 8) hb]
  omega

/-- The value of big-endian bytes as a number. -/
def bytesToNat (bytes : List Byte) : Nat := bytes.foldl (fun n b => n * 256 + b.toNat) 0

theorem bytesToNat_append (bs : List Byte) (b : Byte) : bytesToNat (bs ++ [b]) = bytesToNat bs * 256 + b.toNat := by
  simp [bytesToNat]

theorem bytesToNat_lt (bs : List Byte) : bytesToNat bs < 2 ^ (8 * bs.length) := by
  induction bs using List.reverseRecOn with
  | nil => simp [bytesToNat]
  | append_singleton bs b ih =>
    have hb : b.toNat < 256 := b.isLt
    rw [bytesToNat_append, List.length_append, List.length_singleton]
    have : 2 ^ (8 * (bs.length + 1)) = 2 ^ (8 * bs.length) * 256 := by
      rw [Nat.mul_add, Nat.pow_add]
    omega

/-- A signature of at most four bytes is their value. -/
theorem sigOf_toNat {bs : List Byte} (h : bs.length ≤ 4) : (sigOf bs).toNat = bytesToNat bs := by
  induction bs using List.reverseRecOn with
  | nil => rfl
  | append_singleton bs b ih =>
    rw [List.length_append, List.length_singleton] at h
    have e : sigOf (bs ++ [b]) = (sigOf bs <<< 8) ||| b.setWidth 32 := by simp [sigOf]
    have hlt := bytesToNat_lt bs
    have h24 : (sigOf bs).toNat < 2 ^ 24 := by
      rw [ih (by omega)]
      calc bytesToNat bs < 2 ^ (8 * bs.length) := hlt
        _ ≤ 2 ^ 24 := Nat.pow_le_pow_right (by decide) (by omega)
    rw [e, shiftIn_toNat _ _ h24, ih (by omega), bytesToNat_append]

theorem bytesBE_length (n : Nat) (v : Long) : (bytesBE n v).length = n := by
  induction n generalizing v with
  | zero => rfl
  | succ n ih => simp [bytesBE, ih]

theorem bytesToNat_bytesBE (n : Nat) (v : Long) : bytesToNat (bytesBE n v) = v.toNat % 2 ^ (8 * n) := by
  induction n generalizing v with
  | zero => simp [bytesBE, bytesToNat, Nat.mod_one]
  | succ n ih =>
    rw [bytesBE, bytesToNat_append, ih]
    simp only [BitVec.toNat_ushiftRight, BitVec.toNat_setWidth]
    have : 2 ^ (8 * (n + 1)) = 256 * 2 ^ (8 * n) := by rw [Nat.mul_add, Nat.pow_add, Nat.mul_comm]
    rw [this, Nat.mod_mul, Nat.shiftRight_eq_div_pow, show (2 : Nat) ^ 8 = 256 from rfl]
    omega

/-- The signature of an encoded value is the value, when it fits. -/
theorem sigOf_bytesBE {n : Nat} (hn : n ≤ 4) {v : Long} (h : v.toNat < 2 ^ (8 * n)) : sigOf (bytesBE n v) = v := by
  apply BitVec.eq_of_toNat_eq
  rw [sigOf_toNat (by rw [bytesBE_length]; exact hn), bytesToNat_bytesBE, Nat.mod_eq_of_lt h]

theorem bytesToNat_inj {bs cs : List Byte} (hl : bs.length = cs.length) (h : bytesToNat bs = bytesToNat cs) :
    bs = cs := by
  induction bs using List.reverseRecOn generalizing cs with
  | nil => cases cs with
    | nil => rfl
    | cons c cs => simp at hl
  | append_singleton bs b ih =>
    cases cs using List.reverseRecOn with
    | nil => simp at hl
    | append_singleton cs c =>
      rw [bytesToNat_append, bytesToNat_append] at h
      have hb : b.toNat < 256 := b.isLt
      have hc : c.toNat < 256 := c.isLt
      rw [ih (by simpa using hl) (by omega), BitVec.eq_of_toNat_eq (x := b) (y := c) (by omega)]

/-- Signature bytes come back from the signature they make. -/
theorem bytesBE_sigOf {bs : List Byte} (h : bs.length ≤ 4) : bytesBE bs.length (sigOf bs) = bs := by
  apply bytesToNat_inj (bytesBE_length _ _)
  rw [bytesToNat_bytesBE, sigOf_toNat h, Nat.mod_eq_of_lt (bytesToNat_lt bs)]

end Sys2Proof
end

