-- ==== Sys2Proof/Laws/Decode.lean ====
section
/-! SUPPORT. The laws of the ROM's rows, of well-formed descriptors and of the decoder. -/

namespace Sys2Proof

/-- The row of an opcode carries that opcode: WF7 holds of every ROM by the way it is read. -/
@[simp] theorem Rom.row_opcode (rom : Rom) (op : Byte) : (rom.row op).opcode = op := by
  unfold Rom.row
  cases h : rom.find? (fun d => d.opcode == op) with
  | none => rfl
  | some d => simpa using List.find?_some h

/-- What a descriptor that passes its checks has: a length of one to five bytes, room for its field, a width. -/
theorem Descriptor.bounds {d : Descriptor} (h : d.failure = none) :
    1 ≤ d.length ∧ d.length ≤ 5 ∧ d.mode.fieldBytes d.w ≤ d.length - 1 ∧ (d.w = 1 ∨ d.w = 2 ∨ d.w = 4) := by
  unfold Descriptor.failure at h
  split at h
  · cases h
  · next h1 =>
    split at h
    · cases h
    · next h2 =>
      split at h
      · cases h
      · next h3 =>
        simp only [Descriptor.wf1, Descriptor.wf2, Descriptor.wf3, validCount, Bool.not_eq_false, Bool.and_eq_true,
          Bool.or_eq_true, decide_eq_true_eq, beq_iff_eq] at h1 h2 h3
        omega

/-- A row that is a row of the table has that row's opcode and length. -/
theorem Descriptor.sameForm_eq {d e : Descriptor} (h : d.sameForm e = true) :
    d = { e with mnemonic := d.mnemonic, stepOver := d.stepOver } := by
  simp only [Descriptor.sameForm, Bool.and_eq_true, beq_iff_eq] at h
  cases d; cases e; simp_all

theorem Descriptor.sameForm_length {d e : Descriptor} (h : d.sameForm e = true) : d.length = e.length := by
  rw [Descriptor.sameForm_eq h]; rfl

theorem Descriptor.sameForm_opcode {d e : Descriptor} (h : d.sameForm e = true) : d.opcode = e.opcode := by
  rw [Descriptor.sameForm_eq h]

/-- A table row found for a descriptor is in the table and has its form. -/
theorem tableRow_some {d : Descriptor} {r : TableRow} (h : tableRow d = some r) :
    r ∈ tableRows ∧ d.sameForm r.descriptor = true :=
  ⟨List.mem_of_find?_eq_some h, by simpa using List.find?_some h⟩

/-- What the decoder answers, with the bytes it was read from. -/
theorem decode_ok {rom : Rom} {bytes : List Byte} {i : Instr} {rest : List Byte}
    (h : decode rom bytes = .ok (i, rest)) :
    ∃ op tail, bytes = op :: tail ∧
      (((rom.row op).kind = .unimpl ∧ i = .unimpl op ∧ rest = tail) ∨
        ((rom.row op).kind ≠ .unimpl ∧ (rom.row op).failure = none ∧ (rom.row op).length - 1 ≤ tail.length ∧
          i = instrOf (rom.row op) (sigOf (tail.take ((rom.row op).length - 1))) ∧
          rest = tail.drop ((rom.row op).length - 1))) := by
  unfold decode at h
  cases bytes with
  | nil => cases h
  | cons op tail =>
    refine ⟨op, tail, rfl, ?_⟩
    dsimp only at h
    split at h
    · next hk => cases h; exact .inl ⟨hk, rfl, rfl⟩
    · next hk =>
      split at h
      · cases h
      · next hf =>
        split at h
        · cases h
        · next hl => cases h; exact .inr ⟨hk, hf, by omega, rfl, rfl⟩

/-- The signature of a row's bytes fits the row. -/
theorem sigFits_sigOf {d : Descriptor} {tail : List Byte} (hl : d.length ≤ 5) :
    d.sigFits (sigOf (tail.take (d.length - 1))) = true := by
  have hlen : (tail.take (d.length - 1)).length ≤ d.length - 1 := by
    rw [List.length_take]; omega
  simp only [Descriptor.sigFits, decide_eq_true_eq]
  rw [sigOf_toNat (by omega)]
  calc bytesToNat (tail.take (d.length - 1)) < 2 ^ (8 * (tail.take (d.length - 1)).length) := bytesToNat_lt _
    _ ≤ 2 ^ (8 * (d.length - 1)) := Nat.pow_le_pow_right (by decide) (by omega)

end Sys2Proof
end

