-- ==== Sys2Proof/Laws/State.lean ====
section
/-! SUPPORT. The field lemmas of the machine's updates: one per field, so that no proof unfolds a record update. -/

namespace Sys2Proof.Machine

/-! ### didRead -/

@[simp] theorem didRead_cfg (s : State) (x : Long) (n : Nat) : (s.didRead x n).cfg = s.cfg := rfl
@[simp] theorem didRead_d (s : State) (x : Long) (n : Nat) : (s.didRead x n).d = s.d := rfl
@[simp] theorem didRead_a (s : State) (x : Long) (n : Nat) : (s.didRead x n).a = s.a := rfl
@[simp] theorem didRead_usp (s : State) (x : Long) (n : Nat) : (s.didRead x n).usp = s.usp := rfl
@[simp] theorem didRead_ssp (s : State) (x : Long) (n : Nat) : (s.didRead x n).ssp = s.ssp := rfl
@[simp] theorem didRead_sr (s : State) (x : Long) (n : Nat) : (s.didRead x n).sr = s.sr := rfl
@[simp] theorem didRead_pc (s : State) (x : Long) (n : Nat) : (s.didRead x n).pc = s.pc := rfl
@[simp] theorem didRead_pins (s : State) (x : Long) (n : Nat) : (s.didRead x n).pins = s.pins := rfl
@[simp] theorem didRead_cpuState (s : State) (x : Long) (n : Nat) : (s.didRead x n).cpuState = s.cpuState := rfl
@[simp] theorem didRead_pauseFlag (s : State) (x : Long) (n : Nat) : (s.didRead x n).pauseFlag = s.pauseFlag := rfl
@[simp] theorem didRead_cycles (s : State) (x : Long) (n : Nat) : (s.didRead x n).cycles = s.cycles := rfl
@[simp] theorem didRead_lastDecoded (s : State) (x : Long) (n : Nat) :
    (s.didRead x n).lastDecoded = s.lastDecoded := rfl
@[simp] theorem didRead_lastError (s : State) (x : Long) (n : Nat) : (s.didRead x n).lastError = s.lastError := rfl
@[simp] theorem didRead_breakpoints (s : State) (x : Long) (n : Nat) :
    (s.didRead x n).breakpoints = s.breakpoints := rfl
@[simp] theorem didRead_ephemeral (s : State) (x : Long) (n : Nat) : (s.didRead x n).ephemeral = s.ephemeral := rfl
@[simp] theorem didRead_watchInterrupts (s : State) (x : Long) (n : Nat) :
    (s.didRead x n).watchInterrupts = s.watchInterrupts := rfl
@[simp] theorem didRead_watchedCats (s : State) (x : Long) (n : Nat) :
    (s.didRead x n).watchedCats = s.watchedCats := rfl
@[simp] theorem didRead_lineCache (s : State) (x : Long) (n : Nat) : (s.didRead x n).lineCache = s.lineCache := rfl
@[simp] theorem didRead_lastHit (s : State) (x : Long) (n : Nat) : (s.didRead x n).lastHit = s.lastHit := rfl
@[simp] theorem didRead_mem (s : State) (x : Long) (n : Nat) : (s.didRead x n).mem = s.mem := rfl
@[simp] theorem didRead_resetDone (s : State) (x : Long) (n : Nat) : (s.didRead x n).resetDone = s.resetDone := rfl
@[simp] theorem didRead_stepResult (s : State) (x : Long) (n : Nat) : (s.didRead x n).stepResult = s.stepResult := rfl
@[simp] theorem didRead_reply (s : State) (x : Long) (n : Nat) : (s.didRead x n).reply = s.reply := rfl
@[simp] theorem didRead_bus (s : State) (x : Long) (n : Nat) :
    (s.didRead x n).bus = s.bus ++ [{ isWrite := false, addr := x, bytes := n, value := s.peek x n, vectorPull := s.pins.vectorPull }] := rfl
@[simp] theorem didRead_schedule (s : State) (x : Long) (n : Nat) : (s.didRead x n).schedule = s.schedule := rfl

/-! ### memWrite -/

@[simp] theorem memWrite_cfg (s : State) (x : Long) (n : Nat) (v : Long) : (s.memWrite x n v).cfg = s.cfg := rfl
@[simp] theorem memWrite_d (s : State) (x : Long) (n : Nat) (v : Long) : (s.memWrite x n v).d = s.d := rfl
@[simp] theorem memWrite_a (s : State) (x : Long) (n : Nat) (v : Long) : (s.memWrite x n v).a = s.a := rfl
@[simp] theorem memWrite_usp (s : State) (x : Long) (n : Nat) (v : Long) : (s.memWrite x n v).usp = s.usp := rfl
@[simp] theorem memWrite_ssp (s : State) (x : Long) (n : Nat) (v : Long) : (s.memWrite x n v).ssp = s.ssp := rfl
@[simp] theorem memWrite_sr (s : State) (x : Long) (n : Nat) (v : Long) : (s.memWrite x n v).sr = s.sr := rfl
@[simp] theorem memWrite_pc (s : State) (x : Long) (n : Nat) (v : Long) : (s.memWrite x n v).pc = s.pc := rfl
@[simp] theorem memWrite_pins (s : State) (x : Long) (n : Nat) (v : Long) : (s.memWrite x n v).pins = s.pins := rfl
@[simp] theorem memWrite_cpuState (s : State) (x : Long) (n : Nat) (v : Long) :
    (s.memWrite x n v).cpuState = s.cpuState := rfl
@[simp] theorem memWrite_pauseFlag (s : State) (x : Long) (n : Nat) (v : Long) :
    (s.memWrite x n v).pauseFlag = s.pauseFlag := rfl
@[simp] theorem memWrite_cycles (s : State) (x : Long) (n : Nat) (v : Long) :
    (s.memWrite x n v).cycles = s.cycles := rfl
@[simp] theorem memWrite_lastDecoded (s : State) (x : Long) (n : Nat) (v : Long) :
    (s.memWrite x n v).lastDecoded = s.lastDecoded := rfl
@[simp] theorem memWrite_lastError (s : State) (x : Long) (n : Nat) (v : Long) :
    (s.memWrite x n v).lastError = s.lastError := rfl
@[simp] theorem memWrite_breakpoints (s : State) (x : Long) (n : Nat) (v : Long) :
    (s.memWrite x n v).breakpoints = s.breakpoints := rfl
@[simp] theorem memWrite_ephemeral (s : State) (x : Long) (n : Nat) (v : Long) :
    (s.memWrite x n v).ephemeral = s.ephemeral := rfl
@[simp] theorem memWrite_watchInterrupts (s : State) (x : Long) (n : Nat) (v : Long) :
    (s.memWrite x n v).watchInterrupts = s.watchInterrupts := rfl
@[simp] theorem memWrite_watchedCats (s : State) (x : Long) (n : Nat) (v : Long) :
    (s.memWrite x n v).watchedCats = s.watchedCats := rfl
@[simp] theorem memWrite_lineCache (s : State) (x : Long) (n : Nat) (v : Long) :
    (s.memWrite x n v).lineCache = s.lineCache := rfl
@[simp] theorem memWrite_lastHit (s : State) (x : Long) (n : Nat) (v : Long) :
    (s.memWrite x n v).lastHit = s.lastHit := rfl
@[simp] theorem memWrite_mem (s : State) (x : Long) (n : Nat) (v : Long) :
    (s.memWrite x n v).mem = memPutBE s.mem x n v := rfl
@[simp] theorem memWrite_resetDone (s : State) (x : Long) (n : Nat) (v : Long) :
    (s.memWrite x n v).resetDone = s.resetDone := rfl
@[simp] theorem memWrite_stepResult (s : State) (x : Long) (n : Nat) (v : Long) :
    (s.memWrite x n v).stepResult = s.stepResult := rfl
@[simp] theorem memWrite_reply (s : State) (x : Long) (n : Nat) (v : Long) : (s.memWrite x n v).reply = s.reply := rfl
@[simp] theorem memWrite_bus (s : State) (x : Long) (n : Nat) (v : Long) :
    (s.memWrite x n v).bus = s.bus ++ [{ isWrite := true, addr := x, bytes := n, value := lowBytes n v, vectorPull := s.pins.vectorPull }] := rfl
@[simp] theorem memWrite_schedule (s : State) (x : Long) (n : Nat) (v : Long) :
    (s.memWrite x n v).schedule = s.schedule := rfl

/-! ### driveVectorPull -/

@[simp] theorem driveVectorPull_cfg (s : State) (b : Bool) : (s.driveVectorPull b).cfg = s.cfg := rfl
@[simp] theorem driveVectorPull_d (s : State) (b : Bool) : (s.driveVectorPull b).d = s.d := rfl
@[simp] theorem driveVectorPull_a (s : State) (b : Bool) : (s.driveVectorPull b).a = s.a := rfl
@[simp] theorem driveVectorPull_usp (s : State) (b : Bool) : (s.driveVectorPull b).usp = s.usp := rfl
@[simp] theorem driveVectorPull_ssp (s : State) (b : Bool) : (s.driveVectorPull b).ssp = s.ssp := rfl
@[simp] theorem driveVectorPull_sr (s : State) (b : Bool) : (s.driveVectorPull b).sr = s.sr := rfl
@[simp] theorem driveVectorPull_pc (s : State) (b : Bool) : (s.driveVectorPull b).pc = s.pc := rfl
@[simp] theorem driveVectorPull_pins (s : State) (b : Bool) :
    (s.driveVectorPull b).pins = { s.pins with vectorPull := b } := rfl
@[simp] theorem driveVectorPull_cpuState (s : State) (b : Bool) : (s.driveVectorPull b).cpuState = s.cpuState := rfl
@[simp] theorem driveVectorPull_pauseFlag (s : State) (b : Bool) :
    (s.driveVectorPull b).pauseFlag = s.pauseFlag := rfl
@[simp] theorem driveVectorPull_cycles (s : State) (b : Bool) : (s.driveVectorPull b).cycles = s.cycles := rfl
@[simp] theorem driveVectorPull_lastDecoded (s : State) (b : Bool) :
    (s.driveVectorPull b).lastDecoded = s.lastDecoded := rfl
@[simp] theorem driveVectorPull_lastError (s : State) (b : Bool) :
    (s.driveVectorPull b).lastError = s.lastError := rfl
@[simp] theorem driveVectorPull_breakpoints (s : State) (b : Bool) :
    (s.driveVectorPull b).breakpoints = s.breakpoints := rfl
@[simp] theorem driveVectorPull_ephemeral (s : State) (b : Bool) :
    (s.driveVectorPull b).ephemeral = s.ephemeral := rfl
@[simp] theorem driveVectorPull_watchInterrupts (s : State) (b : Bool) :
    (s.driveVectorPull b).watchInterrupts = s.watchInterrupts := rfl
@[simp] theorem driveVectorPull_watchedCats (s : State) (b : Bool) :
    (s.driveVectorPull b).watchedCats = s.watchedCats := rfl
@[simp] theorem driveVectorPull_lineCache (s : State) (b : Bool) :
    (s.driveVectorPull b).lineCache = s.lineCache := rfl
@[simp] theorem driveVectorPull_lastHit (s : State) (b : Bool) : (s.driveVectorPull b).lastHit = s.lastHit := rfl
@[simp] theorem driveVectorPull_mem (s : State) (b : Bool) : (s.driveVectorPull b).mem = s.mem := rfl
@[simp] theorem driveVectorPull_resetDone (s : State) (b : Bool) :
    (s.driveVectorPull b).resetDone = s.resetDone := rfl
@[simp] theorem driveVectorPull_stepResult (s : State) (b : Bool) :
    (s.driveVectorPull b).stepResult = s.stepResult := rfl
@[simp] theorem driveVectorPull_reply (s : State) (b : Bool) : (s.driveVectorPull b).reply = s.reply := rfl
@[simp] theorem driveVectorPull_bus (s : State) (b : Bool) : (s.driveVectorPull b).bus = s.bus := rfl
@[simp] theorem driveVectorPull_schedule (s : State) (b : Bool) : (s.driveVectorPull b).schedule = s.schedule := rfl

/-! ### setPc -/

@[simp] theorem setPc_cfg (s : State) (t : Long) : (s.setPc t).cfg = s.cfg := rfl
@[simp] theorem setPc_d (s : State) (t : Long) : (s.setPc t).d = s.d := rfl
@[simp] theorem setPc_a (s : State) (t : Long) : (s.setPc t).a = s.a := rfl
@[simp] theorem setPc_usp (s : State) (t : Long) : (s.setPc t).usp = s.usp := rfl
@[simp] theorem setPc_ssp (s : State) (t : Long) : (s.setPc t).ssp = s.ssp := rfl
@[simp] theorem setPc_sr (s : State) (t : Long) : (s.setPc t).sr = s.sr := rfl
@[simp] theorem setPc_pc (s : State) (t : Long) : (s.setPc t).pc = truncPc s.cfg t := rfl
@[simp] theorem setPc_pins (s : State) (t : Long) : (s.setPc t).pins = s.pins := rfl
@[simp] theorem setPc_cpuState (s : State) (t : Long) : (s.setPc t).cpuState = s.cpuState := rfl
@[simp] theorem setPc_pauseFlag (s : State) (t : Long) : (s.setPc t).pauseFlag = s.pauseFlag := rfl
@[simp] theorem setPc_cycles (s : State) (t : Long) : (s.setPc t).cycles = s.cycles := rfl
@[simp] theorem setPc_lastDecoded (s : State) (t : Long) : (s.setPc t).lastDecoded = s.lastDecoded := rfl
@[simp] theorem setPc_lastError (s : State) (t : Long) : (s.setPc t).lastError = s.lastError := rfl
@[simp] theorem setPc_breakpoints (s : State) (t : Long) : (s.setPc t).breakpoints = s.breakpoints := rfl
@[simp] theorem setPc_ephemeral (s : State) (t : Long) : (s.setPc t).ephemeral = s.ephemeral := rfl
@[simp] theorem setPc_watchInterrupts (s : State) (t : Long) : (s.setPc t).watchInterrupts = s.watchInterrupts := rfl
@[simp] theorem setPc_watchedCats (s : State) (t : Long) : (s.setPc t).watchedCats = s.watchedCats := rfl
@[simp] theorem setPc_lineCache (s : State) (t : Long) : (s.setPc t).lineCache = s.lineCache := rfl
@[simp] theorem setPc_lastHit (s : State) (t : Long) : (s.setPc t).lastHit = s.lastHit := rfl
@[simp] theorem setPc_mem (s : State) (t : Long) : (s.setPc t).mem = s.mem := rfl
@[simp] theorem setPc_resetDone (s : State) (t : Long) : (s.setPc t).resetDone = s.resetDone := rfl
@[simp] theorem setPc_stepResult (s : State) (t : Long) : (s.setPc t).stepResult = s.stepResult := rfl
@[simp] theorem setPc_reply (s : State) (t : Long) : (s.setPc t).reply = s.reply := rfl
@[simp] theorem setPc_bus (s : State) (t : Long) : (s.setPc t).bus = s.bus := rfl
@[simp] theorem setPc_schedule (s : State) (t : Long) : (s.setPc t).schedule = s.schedule := rfl

/-! ### charge -/

@[simp] theorem charge_cfg (s : State) (n : Nat) : (s.charge n).cfg = s.cfg := rfl
@[simp] theorem charge_d (s : State) (n : Nat) : (s.charge n).d = s.d := rfl
@[simp] theorem charge_a (s : State) (n : Nat) : (s.charge n).a = s.a := rfl
@[simp] theorem charge_usp (s : State) (n : Nat) : (s.charge n).usp = s.usp := rfl
@[simp] theorem charge_ssp (s : State) (n : Nat) : (s.charge n).ssp = s.ssp := rfl
@[simp] theorem charge_sr (s : State) (n : Nat) : (s.charge n).sr = s.sr := rfl
@[simp] theorem charge_pc (s : State) (n : Nat) : (s.charge n).pc = s.pc := rfl
@[simp] theorem charge_pins (s : State) (n : Nat) : (s.charge n).pins = s.pins := rfl
@[simp] theorem charge_cpuState (s : State) (n : Nat) : (s.charge n).cpuState = s.cpuState := rfl
@[simp] theorem charge_pauseFlag (s : State) (n : Nat) : (s.charge n).pauseFlag = s.pauseFlag := rfl
@[simp] theorem charge_cycles (s : State) (n : Nat) : (s.charge n).cycles = s.cycles + BitVec.ofNat 64 n := rfl
@[simp] theorem charge_lastDecoded (s : State) (n : Nat) : (s.charge n).lastDecoded = s.lastDecoded := rfl
@[simp] theorem charge_lastError (s : State) (n : Nat) : (s.charge n).lastError = s.lastError := rfl
@[simp] theorem charge_breakpoints (s : State) (n : Nat) : (s.charge n).breakpoints = s.breakpoints := rfl
@[simp] theorem charge_ephemeral (s : State) (n : Nat) : (s.charge n).ephemeral = s.ephemeral := rfl
@[simp] theorem charge_watchInterrupts (s : State) (n : Nat) : (s.charge n).watchInterrupts = s.watchInterrupts := rfl
@[simp] theorem charge_watchedCats (s : State) (n : Nat) : (s.charge n).watchedCats = s.watchedCats := rfl
@[simp] theorem charge_lineCache (s : State) (n : Nat) : (s.charge n).lineCache = s.lineCache := rfl
@[simp] theorem charge_lastHit (s : State) (n : Nat) : (s.charge n).lastHit = s.lastHit := rfl
@[simp] theorem charge_mem (s : State) (n : Nat) : (s.charge n).mem = s.mem := rfl
@[simp] theorem charge_resetDone (s : State) (n : Nat) : (s.charge n).resetDone = s.resetDone := rfl
@[simp] theorem charge_stepResult (s : State) (n : Nat) : (s.charge n).stepResult = s.stepResult := rfl
@[simp] theorem charge_reply (s : State) (n : Nat) : (s.charge n).reply = s.reply := rfl
@[simp] theorem charge_bus (s : State) (n : Nat) : (s.charge n).bus = s.bus := rfl
@[simp] theorem charge_schedule (s : State) (n : Nat) : (s.charge n).schedule = s.schedule := rfl

/-! ### noteDecoded -/

@[simp] theorem noteDecoded_cfg (s : State) (op : Byte) (m : String) : (s.noteDecoded op m).cfg = s.cfg := rfl
@[simp] theorem noteDecoded_d (s : State) (op : Byte) (m : String) : (s.noteDecoded op m).d = s.d := rfl
@[simp] theorem noteDecoded_a (s : State) (op : Byte) (m : String) : (s.noteDecoded op m).a = s.a := rfl
@[simp] theorem noteDecoded_usp (s : State) (op : Byte) (m : String) : (s.noteDecoded op m).usp = s.usp := rfl
@[simp] theorem noteDecoded_ssp (s : State) (op : Byte) (m : String) : (s.noteDecoded op m).ssp = s.ssp := rfl
@[simp] theorem noteDecoded_sr (s : State) (op : Byte) (m : String) : (s.noteDecoded op m).sr = s.sr := rfl
@[simp] theorem noteDecoded_pc (s : State) (op : Byte) (m : String) : (s.noteDecoded op m).pc = s.pc := rfl
@[simp] theorem noteDecoded_pins (s : State) (op : Byte) (m : String) : (s.noteDecoded op m).pins = s.pins := rfl
@[simp] theorem noteDecoded_cpuState (s : State) (op : Byte) (m : String) :
    (s.noteDecoded op m).cpuState = s.cpuState := rfl
@[simp] theorem noteDecoded_pauseFlag (s : State) (op : Byte) (m : String) :
    (s.noteDecoded op m).pauseFlag = s.pauseFlag := rfl
@[simp] theorem noteDecoded_cycles (s : State) (op : Byte) (m : String) :
    (s.noteDecoded op m).cycles = s.cycles := rfl
@[simp] theorem noteDecoded_lastDecoded (s : State) (op : Byte) (m : String) :
    (s.noteDecoded op m).lastDecoded = some { address := s.pc, opcode := op, mnemonic := m } := rfl
@[simp] theorem noteDecoded_lastError (s : State) (op : Byte) (m : String) :
    (s.noteDecoded op m).lastError = s.lastError := rfl
@[simp] theorem noteDecoded_breakpoints (s : State) (op : Byte) (m : String) :
    (s.noteDecoded op m).breakpoints = s.breakpoints := rfl
@[simp] theorem noteDecoded_ephemeral (s : State) (op : Byte) (m : String) :
    (s.noteDecoded op m).ephemeral = s.ephemeral := rfl
@[simp] theorem noteDecoded_watchInterrupts (s : State) (op : Byte) (m : String) :
    (s.noteDecoded op m).watchInterrupts = s.watchInterrupts := rfl
@[simp] theorem noteDecoded_watchedCats (s : State) (op : Byte) (m : String) :
    (s.noteDecoded op m).watchedCats = s.watchedCats := rfl
@[simp] theorem noteDecoded_lineCache (s : State) (op : Byte) (m : String) :
    (s.noteDecoded op m).lineCache = s.lineCache := rfl
@[simp] theorem noteDecoded_lastHit (s : State) (op : Byte) (m : String) :
    (s.noteDecoded op m).lastHit = s.lastHit := rfl
@[simp] theorem noteDecoded_mem (s : State) (op : Byte) (m : String) : (s.noteDecoded op m).mem = s.mem := rfl
@[simp] theorem noteDecoded_resetDone (s : State) (op : Byte) (m : String) :
    (s.noteDecoded op m).resetDone = s.resetDone := rfl
@[simp] theorem noteDecoded_stepResult (s : State) (op : Byte) (m : String) :
    (s.noteDecoded op m).stepResult = s.stepResult := rfl
@[simp] theorem noteDecoded_reply (s : State) (op : Byte) (m : String) : (s.noteDecoded op m).reply = s.reply := rfl
@[simp] theorem noteDecoded_bus (s : State) (op : Byte) (m : String) : (s.noteDecoded op m).bus = s.bus := rfl
@[simp] theorem noteDecoded_schedule (s : State) (op : Byte) (m : String) :
    (s.noteDecoded op m).schedule = s.schedule := rfl

/-! ### raiseError -/

@[simp] theorem raiseError_cfg (s : State) (b : List BusAccess) (e : ErrorRecord) :
    (s.raiseError b e).cfg = s.cfg := rfl
@[simp] theorem raiseError_d (s : State) (b : List BusAccess) (e : ErrorRecord) : (s.raiseError b e).d = s.d := rfl
@[simp] theorem raiseError_a (s : State) (b : List BusAccess) (e : ErrorRecord) : (s.raiseError b e).a = s.a := rfl
@[simp] theorem raiseError_usp (s : State) (b : List BusAccess) (e : ErrorRecord) :
    (s.raiseError b e).usp = s.usp := rfl
@[simp] theorem raiseError_ssp (s : State) (b : List BusAccess) (e : ErrorRecord) :
    (s.raiseError b e).ssp = s.ssp := rfl
@[simp] theorem raiseError_sr (s : State) (b : List BusAccess) (e : ErrorRecord) : (s.raiseError b e).sr = s.sr := rfl
@[simp] theorem raiseError_pc (s : State) (b : List BusAccess) (e : ErrorRecord) : (s.raiseError b e).pc = s.pc := rfl
@[simp] theorem raiseError_pins (s : State) (b : List BusAccess) (e : ErrorRecord) :
    (s.raiseError b e).pins = s.pins := rfl
@[simp] theorem raiseError_cpuState (s : State) (b : List BusAccess) (e : ErrorRecord) :
    (s.raiseError b e).cpuState = if e.code.fatal then .halted else s.cpuState := rfl
@[simp] theorem raiseError_pauseFlag (s : State) (b : List BusAccess) (e : ErrorRecord) :
    (s.raiseError b e).pauseFlag = true := rfl
@[simp] theorem raiseError_cycles (s : State) (b : List BusAccess) (e : ErrorRecord) :
    (s.raiseError b e).cycles = s.cycles := rfl
@[simp] theorem raiseError_lastDecoded (s : State) (b : List BusAccess) (e : ErrorRecord) :
    (s.raiseError b e).lastDecoded = s.lastDecoded := rfl
@[simp] theorem raiseError_lastError (s : State) (b : List BusAccess) (e : ErrorRecord) :
    (s.raiseError b e).lastError = some e := rfl
@[simp] theorem raiseError_breakpoints (s : State) (b : List BusAccess) (e : ErrorRecord) :
    (s.raiseError b e).breakpoints = s.breakpoints := rfl
@[simp] theorem raiseError_ephemeral (s : State) (b : List BusAccess) (e : ErrorRecord) :
    (s.raiseError b e).ephemeral = none := rfl
@[simp] theorem raiseError_watchInterrupts (s : State) (b : List BusAccess) (e : ErrorRecord) :
    (s.raiseError b e).watchInterrupts = s.watchInterrupts := rfl
@[simp] theorem raiseError_watchedCats (s : State) (b : List BusAccess) (e : ErrorRecord) :
    (s.raiseError b e).watchedCats = s.watchedCats := rfl
@[simp] theorem raiseError_lineCache (s : State) (b : List BusAccess) (e : ErrorRecord) :
    (s.raiseError b e).lineCache = s.lineCache := rfl
@[simp] theorem raiseError_lastHit (s : State) (b : List BusAccess) (e : ErrorRecord) :
    (s.raiseError b e).lastHit = s.lastHit := rfl
@[simp] theorem raiseError_mem (s : State) (b : List BusAccess) (e : ErrorRecord) :
    (s.raiseError b e).mem = s.mem := rfl
@[simp] theorem raiseError_resetDone (s : State) (b : List BusAccess) (e : ErrorRecord) :
    (s.raiseError b e).resetDone = s.resetDone := rfl
@[simp] theorem raiseError_stepResult (s : State) (b : List BusAccess) (e : ErrorRecord) :
    (s.raiseError b e).stepResult = false := rfl
@[simp] theorem raiseError_reply (s : State) (b : List BusAccess) (e : ErrorRecord) :
    (s.raiseError b e).reply = s.reply := rfl
@[simp] theorem raiseError_bus (s : State) (b : List BusAccess) (e : ErrorRecord) : (s.raiseError b e).bus = b := rfl
@[simp] theorem raiseError_schedule (s : State) (b : List BusAccess) (e : ErrorRecord) :
    (s.raiseError b e).schedule = s.schedule := rfl

/-! ### beginMove -/

@[simp] theorem beginMove_cfg (s : State) : (s.beginMove).cfg = s.cfg := rfl
@[simp] theorem beginMove_d (s : State) : (s.beginMove).d = s.d := rfl
@[simp] theorem beginMove_a (s : State) : (s.beginMove).a = s.a := rfl
@[simp] theorem beginMove_usp (s : State) : (s.beginMove).usp = s.usp := rfl
@[simp] theorem beginMove_ssp (s : State) : (s.beginMove).ssp = s.ssp := rfl
@[simp] theorem beginMove_sr (s : State) : (s.beginMove).sr = s.sr := rfl
@[simp] theorem beginMove_pc (s : State) : (s.beginMove).pc = s.pc := rfl
@[simp] theorem beginMove_pins (s : State) : (s.beginMove).pins = s.pins := rfl
@[simp] theorem beginMove_cpuState (s : State) : (s.beginMove).cpuState = s.cpuState := rfl
@[simp] theorem beginMove_pauseFlag (s : State) : (s.beginMove).pauseFlag = s.pauseFlag := rfl
@[simp] theorem beginMove_cycles (s : State) : (s.beginMove).cycles = s.cycles := rfl
@[simp] theorem beginMove_lastDecoded (s : State) : (s.beginMove).lastDecoded = s.lastDecoded := rfl
@[simp] theorem beginMove_lastError (s : State) : (s.beginMove).lastError = s.lastError := rfl
@[simp] theorem beginMove_breakpoints (s : State) : (s.beginMove).breakpoints = s.breakpoints := rfl
@[simp] theorem beginMove_ephemeral (s : State) : (s.beginMove).ephemeral = s.ephemeral := rfl
@[simp] theorem beginMove_watchInterrupts (s : State) : (s.beginMove).watchInterrupts = s.watchInterrupts := rfl
@[simp] theorem beginMove_watchedCats (s : State) : (s.beginMove).watchedCats = s.watchedCats := rfl
@[simp] theorem beginMove_lineCache (s : State) : (s.beginMove).lineCache = s.lineCache := rfl
@[simp] theorem beginMove_lastHit (s : State) : (s.beginMove).lastHit = s.lastHit := rfl
@[simp] theorem beginMove_mem (s : State) : (s.beginMove).mem = s.mem := rfl
@[simp] theorem beginMove_resetDone (s : State) : (s.beginMove).resetDone = s.resetDone := rfl
@[simp] theorem beginMove_stepResult (s : State) : (s.beginMove).stepResult = s.stepResult := rfl
@[simp] theorem beginMove_reply (s : State) : (s.beginMove).reply = none := rfl
@[simp] theorem beginMove_bus (s : State) : (s.beginMove).bus = [] := rfl
@[simp] theorem beginMove_schedule (s : State) : (s.beginMove).schedule = s.schedule := rfl

/-! ### Reads of memory depend on memory alone -/

theorem readByte_of_mem {s t : State} (h : s.mem = t.mem) (a : Long) : s.readByte a = t.readByte a := by
  unfold State.readByte; rw [h]

theorem peek_of_mem {s t : State} (h : s.mem = t.mem) (a : Long) (n : Nat) : s.peek a n = t.peek a n := by
  induction n with
  | zero => rfl
  | succ n ih => unfold State.peek; rw [ih, readByte_of_mem h]

@[simp] theorem didRead_peek (s : State) (x : Long) (n : Nat) (y : Long) (k : Nat) : (s.didRead x n).peek y k = s.peek y k :=
  peek_of_mem (s := s.didRead x n) (t := s) rfl y k
@[simp] theorem didRead_readByte (s : State) (x : Long) (n : Nat) (y : Long) : (s.didRead x n).readByte y = s.readByte y := rfl
@[simp] theorem driveVectorPull_peek (s : State) (b : Bool) (y : Long) (k : Nat) : (s.driveVectorPull b).peek y k = s.peek y k :=
  peek_of_mem (s := s.driveVectorPull b) (t := s) rfl y k
@[simp] theorem driveVectorPull_readByte (s : State) (b : Bool) (y : Long) : (s.driveVectorPull b).readByte y = s.readByte y := rfl
@[simp] theorem setPc_peek (s : State) (t : Long) (y : Long) (k : Nat) : (s.setPc t).peek y k = s.peek y k :=
  peek_of_mem (s := s.setPc t) (t := s) rfl y k
@[simp] theorem setPc_readByte (s : State) (t : Long) (y : Long) : (s.setPc t).readByte y = s.readByte y := rfl
@[simp] theorem charge_peek (s : State) (n : Nat) (y : Long) (k : Nat) : (s.charge n).peek y k = s.peek y k :=
  peek_of_mem (s := s.charge n) (t := s) rfl y k
@[simp] theorem charge_readByte (s : State) (n : Nat) (y : Long) : (s.charge n).readByte y = s.readByte y := rfl
@[simp] theorem noteDecoded_peek (s : State) (op : Byte) (m : String) (y : Long) (k : Nat) : (s.noteDecoded op m).peek y k = s.peek y k :=
  peek_of_mem (s := s.noteDecoded op m) (t := s) rfl y k
@[simp] theorem noteDecoded_readByte (s : State) (op : Byte) (m : String) (y : Long) : (s.noteDecoded op m).readByte y = s.readByte y := rfl
@[simp] theorem raiseError_peek (s : State) (b : List BusAccess) (e : ErrorRecord) (y : Long) (k : Nat) : (s.raiseError b e).peek y k = s.peek y k :=
  peek_of_mem (s := s.raiseError b e) (t := s) rfl y k
@[simp] theorem raiseError_readByte (s : State) (b : List BusAccess) (e : ErrorRecord) (y : Long) : (s.raiseError b e).readByte y = s.readByte y := rfl
@[simp] theorem beginMove_peek (s : State) (y : Long) (k : Nat) : (s.beginMove).peek y k = s.peek y k :=
  peek_of_mem (s := s.beginMove) (t := s) rfl y k
@[simp] theorem beginMove_readByte (s : State) (y : Long) : (s.beginMove).readByte y = s.readByte y := rfl

/-! ### didVecRead, jumpVector -/


@[simp] theorem didVecRead_cfg (s : State) (x : Long) :
    (s.didVecRead x).cfg = s.cfg := rfl
@[simp] theorem didVecRead_d (s : State) (x : Long) :
    (s.didVecRead x).d = s.d := rfl
@[simp] theorem didVecRead_a (s : State) (x : Long) :
    (s.didVecRead x).a = s.a := rfl
@[simp] theorem didVecRead_usp (s : State) (x : Long) :
    (s.didVecRead x).usp = s.usp := rfl
@[simp] theorem didVecRead_ssp (s : State) (x : Long) :
    (s.didVecRead x).ssp = s.ssp := rfl
@[simp] theorem didVecRead_sr (s : State) (x : Long) :
    (s.didVecRead x).sr = s.sr := rfl
@[simp] theorem didVecRead_pc (s : State) (x : Long) :
    (s.didVecRead x).pc = s.pc := rfl
@[simp] theorem didVecRead_pins (s : State) (x : Long) :
    (s.didVecRead x).pins = { s.pins with vectorPull := false } := rfl
@[simp] theorem didVecRead_cpuState (s : State) (x : Long) :
    (s.didVecRead x).cpuState = s.cpuState := rfl
@[simp] theorem didVecRead_pauseFlag (s : State) (x : Long) :
    (s.didVecRead x).pauseFlag = s.pauseFlag := rfl
@[simp] theorem didVecRead_cycles (s : State) (x : Long) :
    (s.didVecRead x).cycles = s.cycles := rfl
@[simp] theorem didVecRead_lastDecoded (s : State) (x : Long) :
    (s.didVecRead x).lastDecoded = s.lastDecoded := rfl
@[simp] theorem didVecRead_lastError (s : State) (x : Long) :
    (s.didVecRead x).lastError = s.lastError := rfl
@[simp] theorem didVecRead_breakpoints (s : State) (x : Long) :
    (s.didVecRead x).breakpoints = s.breakpoints := rfl
@[simp] theorem didVecRead_ephemeral (s : State) (x : Long) :
    (s.didVecRead x).ephemeral = s.ephemeral := rfl
@[simp] theorem didVecRead_watchInterrupts (s : State) (x : Long) :
    (s.didVecRead x).watchInterrupts = s.watchInterrupts := rfl
@[simp] theorem didVecRead_watchedCats (s : State) (x : Long) :
    (s.didVecRead x).watchedCats = s.watchedCats := rfl
@[simp] theorem didVecRead_lineCache (s : State) (x : Long) :
    (s.didVecRead x).lineCache = s.lineCache := rfl
@[simp] theorem didVecRead_lastHit (s : State) (x : Long) :
    (s.didVecRead x).lastHit = s.lastHit := rfl
@[simp] theorem didVecRead_mem (s : State) (x : Long) :
    (s.didVecRead x).mem = s.mem := rfl
@[simp] theorem didVecRead_resetDone (s : State) (x : Long) :
    (s.didVecRead x).resetDone = s.resetDone := rfl
@[simp] theorem didVecRead_stepResult (s : State) (x : Long) :
    (s.didVecRead x).stepResult = s.stepResult := rfl
@[simp] theorem didVecRead_reply (s : State) (x : Long) :
    (s.didVecRead x).reply = s.reply := rfl
@[simp] theorem didVecRead_bus (s : State) (x : Long) :
    (s.didVecRead x).bus = s.bus ++ [{ isWrite := false, addr := x, bytes := 4, value := s.peek x 4, vectorPull := true }] := by
  simp [State.didVecRead]
@[simp] theorem didVecRead_schedule (s : State) (x : Long) :
    (s.didVecRead x).schedule = s.schedule := rfl
@[simp] theorem jumpVector_cfg (s : State) (x : Long) :
    (s.jumpVector x).cfg = s.cfg := rfl
@[simp] theorem jumpVector_d (s : State) (x : Long) :
    (s.jumpVector x).d = s.d := rfl
@[simp] theorem jumpVector_a (s : State) (x : Long) :
    (s.jumpVector x).a = s.a := rfl
@[simp] theorem jumpVector_usp (s : State) (x : Long) :
    (s.jumpVector x).usp = s.usp := rfl
@[simp] theorem jumpVector_ssp (s : State) (x : Long) :
    (s.jumpVector x).ssp = s.ssp := rfl
@[simp] theorem jumpVector_sr (s : State) (x : Long) :
    (s.jumpVector x).sr = s.sr := rfl
@[simp] theorem jumpVector_pc (s : State) (x : Long) :
    (s.jumpVector x).pc = truncPc s.cfg (s.peek x 4) := rfl
@[simp] theorem jumpVector_pins (s : State) (x : Long) :
    (s.jumpVector x).pins = { s.pins with vectorPull := false } := rfl
@[simp] theorem jumpVector_cpuState (s : State) (x : Long) :
    (s.jumpVector x).cpuState = s.cpuState := rfl
@[simp] theorem jumpVector_pauseFlag (s : State) (x : Long) :
    (s.jumpVector x).pauseFlag = s.pauseFlag := rfl
@[simp] theorem jumpVector_cycles (s : State) (x : Long) :
    (s.jumpVector x).cycles = s.cycles := rfl
@[simp] theorem jumpVector_lastDecoded (s : State) (x : Long) :
    (s.jumpVector x).lastDecoded = s.lastDecoded := rfl
@[simp] theorem jumpVector_lastError (s : State) (x : Long) :
    (s.jumpVector x).lastError = s.lastError := rfl
@[simp] theorem jumpVector_breakpoints (s : State) (x : Long) :
    (s.jumpVector x).breakpoints = s.breakpoints := rfl
@[simp] theorem jumpVector_ephemeral (s : State) (x : Long) :
    (s.jumpVector x).ephemeral = s.ephemeral := rfl
@[simp] theorem jumpVector_watchInterrupts (s : State) (x : Long) :
    (s.jumpVector x).watchInterrupts = s.watchInterrupts := rfl
@[simp] theorem jumpVector_watchedCats (s : State) (x : Long) :
    (s.jumpVector x).watchedCats = s.watchedCats := rfl
@[simp] theorem jumpVector_lineCache (s : State) (x : Long) :
    (s.jumpVector x).lineCache = s.lineCache := rfl
@[simp] theorem jumpVector_lastHit (s : State) (x : Long) :
    (s.jumpVector x).lastHit = s.lastHit := rfl
@[simp] theorem jumpVector_mem (s : State) (x : Long) :
    (s.jumpVector x).mem = s.mem := rfl
@[simp] theorem jumpVector_resetDone (s : State) (x : Long) :
    (s.jumpVector x).resetDone = s.resetDone := rfl
@[simp] theorem jumpVector_stepResult (s : State) (x : Long) :
    (s.jumpVector x).stepResult = s.stepResult := rfl
@[simp] theorem jumpVector_reply (s : State) (x : Long) :
    (s.jumpVector x).reply = s.reply := rfl
@[simp] theorem jumpVector_bus (s : State) (x : Long) :
    (s.jumpVector x).bus = s.bus ++ [{ isWrite := false, addr := x, bytes := 4, value := s.peek x 4, vectorPull := true }] := by
  simp [State.jumpVector]
@[simp] theorem jumpVector_schedule (s : State) (x : Long) :
    (s.jumpVector x).schedule = s.schedule := rfl

/-! ### setReg: only register fields change -/

@[simp] theorem setReg_cfg (s : State) (r : Reg) (v : Long) : (s.setReg r v).cfg = s.cfg := by
  cases r <;> first | rfl | (simp only [State.setReg]; split <;> rfl)
@[simp] theorem setReg_pc (s : State) (r : Reg) (v : Long) : (s.setReg r v).pc = s.pc := by
  cases r <;> first | rfl | (simp only [State.setReg]; split <;> rfl)
@[simp] theorem setReg_pins (s : State) (r : Reg) (v : Long) : (s.setReg r v).pins = s.pins := by
  cases r <;> first | rfl | (simp only [State.setReg]; split <;> rfl)
@[simp] theorem setReg_cpuState (s : State) (r : Reg) (v : Long) : (s.setReg r v).cpuState = s.cpuState := by
  cases r <;> first | rfl | (simp only [State.setReg]; split <;> rfl)
@[simp] theorem setReg_pauseFlag (s : State) (r : Reg) (v : Long) : (s.setReg r v).pauseFlag = s.pauseFlag := by
  cases r <;> first | rfl | (simp only [State.setReg]; split <;> rfl)
@[simp] theorem setReg_cycles (s : State) (r : Reg) (v : Long) : (s.setReg r v).cycles = s.cycles := by
  cases r <;> first | rfl | (simp only [State.setReg]; split <;> rfl)
@[simp] theorem setReg_lastDecoded (s : State) (r : Reg) (v : Long) : (s.setReg r v).lastDecoded = s.lastDecoded := by
  cases r <;> first | rfl | (simp only [State.setReg]; split <;> rfl)
@[simp] theorem setReg_lastError (s : State) (r : Reg) (v : Long) : (s.setReg r v).lastError = s.lastError := by
  cases r <;> first | rfl | (simp only [State.setReg]; split <;> rfl)
@[simp] theorem setReg_breakpoints (s : State) (r : Reg) (v : Long) : (s.setReg r v).breakpoints = s.breakpoints := by
  cases r <;> first | rfl | (simp only [State.setReg]; split <;> rfl)
@[simp] theorem setReg_ephemeral (s : State) (r : Reg) (v : Long) : (s.setReg r v).ephemeral = s.ephemeral := by
  cases r <;> first | rfl | (simp only [State.setReg]; split <;> rfl)
@[simp] theorem setReg_watchInterrupts (s : State) (r : Reg) (v : Long) : (s.setReg r v).watchInterrupts = s.watchInterrupts := by
  cases r <;> first | rfl | (simp only [State.setReg]; split <;> rfl)
@[simp] theorem setReg_watchedCats (s : State) (r : Reg) (v : Long) : (s.setReg r v).watchedCats = s.watchedCats := by
  cases r <;> first | rfl | (simp only [State.setReg]; split <;> rfl)
@[simp] theorem setReg_lineCache (s : State) (r : Reg) (v : Long) : (s.setReg r v).lineCache = s.lineCache := by
  cases r <;> first | rfl | (simp only [State.setReg]; split <;> rfl)
@[simp] theorem setReg_lastHit (s : State) (r : Reg) (v : Long) : (s.setReg r v).lastHit = s.lastHit := by
  cases r <;> first | rfl | (simp only [State.setReg]; split <;> rfl)
@[simp] theorem setReg_mem (s : State) (r : Reg) (v : Long) : (s.setReg r v).mem = s.mem := by
  cases r <;> first | rfl | (simp only [State.setReg]; split <;> rfl)
@[simp] theorem setReg_resetDone (s : State) (r : Reg) (v : Long) : (s.setReg r v).resetDone = s.resetDone := by
  cases r <;> first | rfl | (simp only [State.setReg]; split <;> rfl)
@[simp] theorem setReg_stepResult (s : State) (r : Reg) (v : Long) : (s.setReg r v).stepResult = s.stepResult := by
  cases r <;> first | rfl | (simp only [State.setReg]; split <;> rfl)
@[simp] theorem setReg_reply (s : State) (r : Reg) (v : Long) : (s.setReg r v).reply = s.reply := by
  cases r <;> first | rfl | (simp only [State.setReg]; split <;> rfl)
@[simp] theorem setReg_bus (s : State) (r : Reg) (v : Long) : (s.setReg r v).bus = s.bus := by
  cases r <;> first | rfl | (simp only [State.setReg]; split <;> rfl)
@[simp] theorem setReg_schedule (s : State) (r : Reg) (v : Long) : (s.setReg r v).schedule = s.schedule := by
  cases r <;> first | rfl | (simp only [State.setReg]; split <;> rfl)

end Sys2Proof.Machine
end

