-- ==== Sys2Proof/Laws/Memory.lean ====
section
/-! SUPPORT. The laws of memory: read after write, and that every memory operation keeps the canonical form. -/

namespace Sys2Proof.Machine

/-! ### One byte -/

/-- A write leaves every other byte alone, in any list. -/
theorem memByte_memPut_other (m : List Host.Cell) {a b : Nat} (v : Byte) (h : b ≠ a) :
    memByte (memPut m a v) b = memByte m b := by
  induction m with
  | nil => unfold memPut; split <;> simp [memByte, h]
  | cons c rest ih =>
    obtain ⟨k, u⟩ := c
    unfold memPut
    split
    · split
      · rfl
      · simp [memByte, h]
    · split
      · next hk =>
        subst hk
        split <;> simp [memByte, h]
      · simp only [memByte, ih]

/-- Below the first address of a canonical memory nothing is listed. -/
theorem memByte_below {lo : Nat} {m : List Host.Cell} (hm : memWfFrom lo m = true) {a : Nat} (h : a < lo) :
    memByte m a = unlistedByte := by
  induction m generalizing lo with
  | nil => rfl
  | cons c rest ih =>
    obtain ⟨k, u⟩ := c
    simp only [memWfFrom, Bool.and_eq_true, decide_eq_true_eq] at hm
    simp only [memByte]
    rw [if_neg (by omega), ih hm.2 (by omega)]

/-- A canonical memory reads back the byte just written. -/
theorem memByte_memPut_same {lo : Nat} {m : List Host.Cell} (hm : memWfFrom lo m = true) (a : Nat) (v : Byte) :
    memByte (memPut m a v) a = v := by
  induction m generalizing lo with
  | nil => unfold memPut; split <;> simp_all [memByte]
  | cons c rest ih =>
    obtain ⟨k, u⟩ := c
    simp only [memWfFrom, Bool.and_eq_true, decide_eq_true_eq] at hm
    unfold memPut
    split
    · next hk =>
      split
      · next hv => rw [hv]; simp only [memByte]; rw [if_neg (by omega), memByte_below hm.2 (by omega)]
      · simp [memByte]
    · split
      · next hk =>
        split
        · next hv => rw [hv, memByte_below hm.2 (by omega)]
        · simp [memByte]
      · next h1 h2 => simp only [memByte]; rw [if_neg h2, ih hm.2]

/-- Weaken the lower bound of a canonical memory. -/
theorem memWfFrom_mono {lo lo' : Nat} {m : List Host.Cell} (h : lo' ≤ lo) (hm : memWfFrom lo m = true) :
    memWfFrom lo' m = true := by
  cases m with
  | nil => rfl
  | cons c rest =>
    obtain ⟨k, u⟩ := c
    simp only [memWfFrom, Bool.and_eq_true, decide_eq_true_eq] at hm ⊢
    exact ⟨⟨⟨by omega, hm.1.1.2⟩, hm.1.2⟩, hm.2⟩

/-- A byte write keeps the canonical form. -/
theorem memPut_wfFrom {lo a : Nat} {m : List Host.Cell} (v : Byte) (hm : memWfFrom lo m = true) (hlo : lo ≤ a)
    (ha : a < 2 ^ 32) : memWfFrom lo (memPut m a v) = true := by
  induction m generalizing lo with
  | nil =>
    unfold memPut
    split
    · rfl
    · next hv => simp [memWfFrom, hlo, hv]; omega
  | cons c rest ih =>
    obtain ⟨k, u⟩ := c
    have hc := hm
    simp only [memWfFrom, Bool.and_eq_true, decide_eq_true_eq] at hm
    unfold memPut
    split
    · next hk =>
      split
      · exact hc
      · next hv =>
        simp only [memWfFrom, Bool.and_eq_true, decide_eq_true_eq]
        exact ⟨⟨⟨hlo, ha⟩, by simp [hv]⟩, ⟨⟨⟨by omega, hm.1.1.2⟩, hm.1.2⟩, hm.2⟩⟩
    · split
      · next hk =>
        split
        · exact memWfFrom_mono (by omega) hm.2
        · next hv =>
          simp only [memWfFrom, Bool.and_eq_true, decide_eq_true_eq]
          exact ⟨⟨⟨hlo, ha⟩, by simp [hv]⟩, hk ▸ hm.2⟩
      · next h1 h2 =>
        simp only [memWfFrom, Bool.and_eq_true, decide_eq_true_eq]
        exact ⟨hm.1, ih hm.2 (by omega)⟩

theorem memPut_wf {m : List Host.Cell} (a : Long) (v : Byte) (hm : Memory.wf m = true) :
    Memory.wf (memPut m a.toNat v) = true :=
  memPut_wfFrom v hm (Nat.zero_le _) a.isLt

/-! ### Wide writes -/

/-- A big-endian write keeps the canonical form. -/
theorem memPutBE_wf {m : List Host.Cell} (a : Long) (n : Nat) (v : Long) (hm : Memory.wf m = true) :
    Memory.wf (memPutBE m a n v) = true := by
  induction n generalizing v with
  | zero => exact hm
  | succ n ih => exact memPut_wf _ _ (ih _)

/-- A big-endian write leaves every byte outside its `n` addresses alone. -/
theorem memByte_memPutBE_other (m : List Host.Cell) (a : Long) (n : Nat) (v : Long) {b : Nat}
    (h : ∀ i, i < n → b ≠ (a + BitVec.ofNat 32 i).toNat) : memByte (memPutBE m a n v) b = memByte m b := by
  induction n generalizing v with
  | zero => rfl
  | succ n ih =>
    unfold memPutBE
    rw [memByte_memPut_other _ _ (h n (Nat.lt_succ_self n)), ih _ fun i hi => h i (Nat.lt_succ_of_lt hi)]

/-- The memory of a state after MemWrite is canonical. -/
theorem memWrite_wf (s : State) (a : Long) (n : Nat) (v : Long) (hm : Memory.wf s.mem = true) :
    Memory.wf (s.memWrite a n v).mem = true :=
  memPutBE_wf a n v hm

/-- MemWrite leaves every byte outside its `n` addresses alone. -/
theorem readByte_memWrite_other (s : State) (a : Long) (n : Nat) (v : Long) {b : Long}
    (h : ∀ i, i < n → b ≠ a + BitVec.ofNat 32 i) : (s.memWrite a n v).readByte b = s.readByte b :=
  memByte_memPutBE_other _ _ _ _ fun i hi e => h i hi (BitVec.eq_of_toNat_eq e)

theorem reset_mem_wf : Memory.wf State.reset.mem = true := rfl

end Sys2Proof.Machine
end

