-- ==== Sys2Proof/Laws/Handlers.lean ====
section
/-! SUPPORT. Once for all instructions: a property that every primitive of spec/43_handlers.md R215 keeps is kept
by every instruction. One lemma per shared operation, handler and run, up to `exec_keeps`. -/

namespace Sys2Proof.Machine

/-- The run of an OTHER handler is never refused. -/
theorem otherRun_ne_refused (d : Descriptor) (sig : Long) (k : Nat) (r : OtherRun) (p : OtherProgram) (x : Refusal) :
    OtherRun.run d sig k r p ≠ .refused x := by
  induction p generalizing k r with
  | nil => simp [OtherRun.run]
  | cons o os ih =>
    cases k with
    | succ k => exact ih _ _
    | zero =>
      simp only [OtherRun.run]
      split
      · simp
      · exact ih _ _

/-- What an OTHER opcode can answer: a refusal without a handler, the run's state, or the error alone with the reads
made before it (spec/43_handlers.md R215). -/
theorem handleOther_cases (d : Descriptor) (sig : Long) (s : State) :
    (s.cfg.others.find? (fun p => p.1 == d.opcode) = none ∧
      handleOther d sig s = .refused (.otherUndefined d.opcode)) ∨
    ∃ op prog, s.cfg.others.find? (fun p => p.1 == d.opcode) = some (op, prog) ∧
      ((∃ t, OtherRun.run d sig 0 (OtherRun.start s) prog = .done t ∧ handleOther d sig s = .done t) ∨
        ∃ n t, OtherRun.run d sig 0 (OtherRun.start s) prog = .raised n t ∧
          handleOther d sig s = .raised n { s with bus := readsOnly s.bus t.bus }) := by
  unfold handleOther
  cases hf : s.cfg.others.find? fun p => p.1 == d.opcode with
  | none => exact .inl ⟨rfl, rfl⟩
  | some p =>
    obtain ⟨op, prog⟩ := p
    refine .inr ⟨op, prog, rfl, ?_⟩
    dsimp only
    cases hr : OtherRun.run d sig 0 (OtherRun.start s) prog with
    | done t => exact .inl ⟨t, rfl, rfl⟩
    | raised n t => exact .inr ⟨n, t, rfl, rfl⟩
    | refused x => exact absurd hr (otherRun_ne_refused d sig 0 _ prog x)

/-- A property of states that every primitive operation of a handler keeps, and so do the end of an instruction
and the error effect. -/
structure Kept (P : State → Prop) : Prop where
  didRead : ∀ {s : State} (a : Long) (n : Nat), P s → P (s.didRead a n)
  memWrite : ∀ {s : State} (a : Long) (n : Nat) (v : Long), P s → P (s.memWrite a n v)
  setReg : ∀ {s : State} (r : Reg) (v : Long), P s → P (s.setReg r v)
  setSr : ∀ {s : State} (r : SR), P s → P { s with sr := r }
  setPc : ∀ {s : State} (t : Long), P s → P (s.setPc t)
  jumpVector : ∀ {s : State} (a : Long), P s → P (s.jumpVector a)
  enter : ∀ {s : State} (t : Trap), P s → P (s.enter t)
  wait : ∀ {s : State}, P s → P { s with cpuState := .waiting }
  retire : ∀ {s : State} (n : Nat), P s → P { s.charge n with stepResult := true }
  raise : ∀ {s : State} (b : List BusAccess) (e : ErrorRecord), e.code.fatal = true → P s → P (s.raiseError b e)

namespace Kept

variable {P : State → Prop} (K : Kept P)
include K

theorem applyPending {s : State} (u : Option Pending) (h : P s) : P (s.applyPending u) := by
  cases u with
  | none => exact h
  | some p => exact K.setReg _ _ h

theorem popPc {s : State} (h : P s) : P s.popPc := K.setPc _ (K.setReg _ _ (K.didRead _ _ h))

theorem xw {s t : State} {r : Reg} {n : Nat} {v : Long} (e : s.xw r n v = .ok t) (h : P s) : P t := by
  unfold State.xw at e
  split at e
  · cases e
  · cases e; exact K.setReg _ _ h

theorem xwCommit {s t : State} {u : Option Pending} {r : Reg} {n : Nat} {v : Long}
    (e : s.xwCommit u r n v = .ok t) (h : P s) : P t := by
  unfold State.xwCommit at e
  split at e
  · cases e
  · cases e; exact K.setReg _ _ (K.applyPending _ h)

theorem setNZ {s t : State} {v : Long} {w : Nat} (e : s.setNZ v w = .ok t) (h : P s) : P t := by
  unfold State.setNZ at e
  split at e
  · cases e; exact K.setSr _ h
  · cases e

theorem setNZUnlessSr {s t : State} {r : Reg} {v : Long} {w : Nat} (e : s.setNZUnlessSr r v w = .ok t) (h : P s) :
    P t := by
  unfold State.setNZUnlessSr at e
  split at e
  · cases e; exact h
  · exact K.setNZ e h

theorem readOp {s t : State} {op : Operand} {w : Nat} {v : Long} (e : s.readOp op w = .ok (v, t)) (h : P s) : P t := by
  unfold State.readOp at e
  split at e
  · split at e <;> cases e; exact h
  · split at e <;> cases e; exact K.didRead _ _ h
  · cases e; exact h
  · cases e

theorem writeOp {s t : State} {op : Operand} {w : Nat} {v : Long} (e : s.writeOp op w v = .ok t) (h : P s) : P t := by
  unfold State.writeOp at e
  split at e
  · exact K.xw e h
  · split at e <;> cases e; exact K.memWrite _ _ _ h
  · cases e
  · cases e

theorem storeOp {s t : State} {op : Operand} {w : Nat} {v : Long} (e : s.storeOp op w v = .ok t) (h : P s) : P t := by
  unfold State.storeOp at e
  split at e
  · next hw =>
    cases e
    split
    · exact h
    · exact K.writeOp hw h
  · cases e

/-- What a handler that is done has kept. -/
theorem pushSource {d : Descriptor} {sig : Long} {s t : State} {v : Long} (e : pushSource d sig s = .ok (v, t))
    (h : P s) : P t := by
  unfold Machine.pushSource at e
  split at e
  · split at e <;> cases e; exact h
  · exact K.readOp e h

theorem handlePush {d : Descriptor} {sig : Long} {s t : State} (e : handlePush d sig s = .done t) (h : P s) : P t := by
  unfold Machine.handlePush at e
  split at e
  · cases e
  · split at e
    · cases e
    · next hp => cases e; exact K.setReg _ _ (K.memWrite _ _ _ (K.applyPending _ (K.pushSource hp h)))

theorem handlePull {d : Descriptor} {sig : Long} {s t : State} (e : handlePull d sig s = .done t) (h : P s) : P t := by
  unfold Machine.handlePull at e
  split at e
  · cases e
  · dsimp only at e
    split at e
    · split at e
      · cases e
      · split at e
        · next hx => cases e; exact K.xw hx (K.setReg _ _ (K.didRead _ _ h))
        · cases e
    · split at e
      · next hx => cases e; exact K.writeOp hx (K.setReg _ _ (K.applyPending _ (K.didRead _ _ h)))
      · cases e

theorem loadInto {r : Reg} {d : Descriptor} {sig : Long} {s t : State} (e : loadInto r d sig s = .done t) (h : P s) :
    P t := by
  unfold Machine.loadInto at e
  split at e
  · cases e
  · next hr =>
    split at e
    · cases e
    · next hw =>
      split at e
      · cases e
      · next hz => cases e; exact K.setNZUnlessSr hz (K.xwCommit hw (K.readOp hr h))

theorem storeFrom {r : Reg} {d : Descriptor} {sig : Long} {s t : State} (e : storeFrom r d sig s = .done t)
    (h : P s) : P t := by
  unfold Machine.storeFrom at e
  split at e
  · cases e
  · split at e
    · cases e
    · next hw =>
      split at e
      · cases e
      · next hz => cases e; exact K.setNZUnlessSr hz (K.storeOp hw (K.applyPending _ h))

theorem writeReg {r t : OtherRun} {reg : Reg} {n : Nat} {v : Long} (e : r.writeReg reg n v = .ok t) (h : P r.state) :
    P t.state := by
  unfold OtherRun.writeReg at e
  split at e
  · next hx => cases e; exact K.xw hx h
  · cases e

/-- One operation of an OTHER handler. -/
theorem otherOp {d : Descriptor} {sig : Long} {r t : OtherRun} {o : OtherOp} (e : r.op d sig o = .ok t)
    (h : P r.state) : P t.state := by
  cases o <;> simp only [OtherRun.op] at e
  case writeReg reg n v => exact K.writeReg e h
  case setNZ v n => split at e <;> cases e; next hz => exact K.setNZ hz h
  case readReg reg n => split at e <;> cases e; exact h
  case readOp n => split at e <;> cases e; next hr => exact K.readOp hr h
  case writeOp n v =>
    split at e
    · exact K.writeReg e h
    · split at e <;> cases e; next hw => exact K.writeOp hw h
    · cases e
    · cases e
  case memRead a n => split at e <;> cases e; exact K.didRead _ _ h
  case memWrite a n v => split at e <;> cases e; exact K.memWrite _ _ _ h
  case setZ v => cases e; exact K.setSr _ h
  case unpack v => cases e; exact K.setSr _ h
  case jumpShort v => cases e; exact K.setPc _ h
  case jumpLong v => cases e; exact K.setPc _ h
  case jumpVector v => cases e; exact K.jumpVector _ h
  case enter k => cases e; exact K.enter _ h
  case ea => split at e <;> cases e <;> exact h
  case wait => cases e; exact K.wait h
  case fail n => cases e
  all_goals (cases e; exact h)

/-- A whole OTHER handler. -/
theorem otherRun {d : Descriptor} {sig : Long} {k : Nat} {r : OtherRun} {p : OtherProgram} {t : State}
    (e : OtherRun.run d sig k r p = .done t) (h : P r.state) : P t := by
  induction p generalizing k r with
  | nil =>
    simp only [OtherRun.run] at e
    cases e
    unfold OtherRun.commit
    split
    · split
      · exact h
      · exact K.setReg _ _ h
    · exact h
  | cons o os ih =>
    cases k with
    | succ k =>
      simp only [OtherRun.run] at e
      exact ih e (by split <;> exact h)
    | zero =>
      simp only [OtherRun.run] at e
      split at e
      · cases e
      · next ho => exact ih e (K.otherOp ho h)

theorem handleOther {d : Descriptor} {sig : Long} {s t : State} (e : handleOther d sig s = .done t) (h : P s) :
    P t := by
  unfold Machine.handleOther at e
  split at e
  · cases e
  · split at e
    · next hd => cases e; exact K.otherRun hd (r := OtherRun.start s) h
    · cases e
    · cases e

theorem handleLoad {d : Descriptor} {sig : Long} {s t : State} (e : handleLoad d sig s = .done t) (h : P s) : P t := by
  unfold Machine.handleLoad at e
  split at e
  · exact K.loadInto e h
  · cases e

theorem handleStore {d : Descriptor} {sig : Long} {s t : State} (e : handleStore d sig s = .done t) (h : P s) :
    P t := by
  unfold Machine.handleStore at e
  split at e
  · exact K.storeFrom e h
  · cases e

theorem handleCall {d : Descriptor} {sig : Long} {s t : State} (e : handleCall d sig s = .done t) (h : P s) : P t := by
  cases e; exact K.setPc _ (K.setReg _ _ (K.memWrite _ _ _ h))

/-- The handler of any kind. -/
theorem handlerOf {d : Descriptor} {sig : Long} {s t : State} (e : handlerOf d sig s = .done t) (h : P s) : P t := by
  unfold Machine.handlerOf at e
  split at e
  · cases e
  · cases e; exact K.enter _ h
  · cases e; exact K.enter _ h
  · cases e; exact K.wait h
  · exact K.handlePush e h
  · exact K.handlePull e h
  · cases e; exact K.popPc h
  · cases e; exact K.setPc _ h
  · cases e; exact K.setPc _ h
  · cases e; exact K.jumpVector _ h
  · exact K.handleCall e h
  · cases e; exact K.popPc h
  · exact K.handleLoad e h
  · exact K.handleStore e h
  · exact K.handleOther e h

/-- An instruction's transaction: done, or the error effect on its start state. -/
theorem runHandler {d : Descriptor} {f : State → HandlerResult} {s t : State}
    (e : runHandler d f s = .next t) (hf : ∀ u v : State, f u = .done v → P u → P v) (h : P s) : P t := by
  unfold Machine.runHandler at e
  split at e
  · next hd => cases e; exact K.retire _ (hf _ _ hd (K.setPc _ h))
  · cases e; exact K.raise _ _ rfl h
  · cases e

end Kept

/-- What every primitive keeps, every instruction keeps. -/
theorem exec_keeps {P : State → Prop} (K : Kept P) {i : Instr} {s t : State} (e : exec i s = .next t) (h : P s) :
    P t := by
  cases i <;> simp only [exec] at e
  case brk => exact K.runHandler e (fun u v hv hu => by cases hv; exact K.enter _ hu) h
  case cop => exact K.runHandler e (fun u v hv hu => by cases hv; exact K.enter _ hu) h
  case stop => exact K.runHandler e (fun u v hv hu => by cases hv; exact K.wait hu) h
  case rti => exact K.runHandler e (fun u v hv hu => by cases hv; exact K.popPc hu) h
  case ret => exact K.runHandler e (fun u v hv hu => by cases hv; exact K.popPc hu) h
  case jmps a => exact K.runHandler e (fun u v hv hu => by cases hv; exact K.setPc _ hu) h
  case jmpl a => exact K.runHandler e (fun u v hv hu => by cases hv; exact K.setPc _ hu) h
  case jmpv a => exact K.runHandler e (fun u v hv hu => by cases hv; exact K.jumpVector _ hu) h
  case call a => exact K.runHandler e (fun u v hv hu => K.handleCall hv hu) h
  case unimpl op => cases e; exact K.raise _ _ rfl h
  case other d g =>
    unfold execOther at e
    split at e
    · cases e
    · exact K.runHandler e (fun u v hv hu => K.handleOther hv hu) h
  case configured d g =>
    unfold execConfigured at e
    split at e
    · cases e
    · split at e
      · cases e; exact K.raise _ _ rfl h
      · exact K.runHandler e (fun u v hv hu => K.handlerOf hv hu) h
  case pushLD0 => exact K.runHandler e (fun u v hv hu => K.handlePush hv hu) h
  case pushD0Count3 => exact K.runHandler e (fun u v hv hu => K.handlePush hv hu) h
  case pushWSr => exact K.runHandler e (fun u v hv hu => K.handlePush hv hu) h
  case pullLD5 => exact K.runHandler e (fun u v hv hu => K.handlePull hv hu) h
  case pullWSr => exact K.runHandler e (fun u v hv hu => K.handlePull hv hu) h
  case storeLD0PreDecA1 => exact K.runHandler e (fun u v hv hu => K.handleStore hv hu) h
  case storeWD0Disp16A0 d => exact K.runHandler e (fun u v hv hu => K.handleStore hv hu) h
  case storeBD0AbsShort d => exact K.runHandler e (fun u v hv hu => K.handleStore hv hu) h
  all_goals exact K.runHandler e (fun u v hv hu => K.handleLoad hv hu) h

end Sys2Proof.Machine
end

