-- ==== Sys2Proof/Laws/Engine.lean ====
section
/-! SUPPORT. What a step can do, said once: ExecuteNext, the worker's move and the next move of the machine, by
cases, and what every step keeps. -/

namespace Sys2Proof.Machine

/-! ### By cases -/

/-- Everything fetch, decode and execution can do. -/
theorem fetchAndExecute_cases {s t : State} (e : s.fetchAndExecute = .next t) :
    (outOfRange s.cfg s.pc = true ∧
      t = s.raiseOutOfRange (s.lastDecoded.map LastDecoded.address) s.pc none) ∨
    ∃ d, d = s.cfg.rom.row (s.readByte s.pc) ∧ outOfRange s.cfg s.pc = false ∧
      ((d.kind = .unimpl ∧
          exec (.unimpl (s.readByte s.pc)) ((s.didRead s.pc 1).noteDecoded (s.readByte s.pc) d.mnemonic) = .next t) ∨
        (d.kind ≠ .unimpl ∧ d.failure = none ∧
          ((∃ f, (sigAddrs s.pc (d.length - 1)).find? (outOfRange s.cfg) = some f ∧
              t = ((s.didRead s.pc 1).noteDecoded (s.readByte s.pc) d.mnemonic).raiseOutOfRange (some s.pc) f
                (some (s.readByte s.pc))) ∨
            ((sigAddrs s.pc (d.length - 1)).find? (outOfRange s.cfg) = none ∧
              exec (instrOf d (sigOf ((sigAddrs s.pc (d.length - 1)).map s.readByte)))
                (((s.didRead s.pc 1).noteDecoded (s.readByte s.pc) d.mnemonic).didFetch
                  (sigAddrs s.pc (d.length - 1))) = .next t)))) := by
  unfold State.fetchAndExecute at e
  dsimp only at e
  split at e
  · next h => cases e; exact .inl ⟨h, rfl⟩
  · next h =>
    refine .inr ⟨_, rfl, by simpa using h, ?_⟩
    split at e
    · next hk => exact .inl ⟨hk, e⟩
    · next hk =>
      split at e
      · cases e
      · next hf =>
        refine .inr ⟨hk, hf, ?_⟩
        split at e
        · next f hff => cases e; exact .inl ⟨f, hff, rfl⟩
        · next hff => exact .inr ⟨hff, e⟩

/-- Before the first Reset no step is enabled (spec/10_state.md R56). -/
theorem executeNext_beforeFirstReset {s : State} (h : s.resetDone = false) :
    s.executeNext = .refused .beforeFirstReset := by
  simp only [State.executeNext, h, if_true]

/-- Everything ExecuteNext can do (spec/42_engine.md R170). -/
theorem executeNext_cases {s t : State} (e : s.executeNext = .next t) :
    s.resetDone = true ∧
    ((s.cpuState = .halted ∧ t = { s with stepResult := false }) ∨
    (s.cpuState ≠ .halted ∧ s.pins.ready = false ∧ t = s.skipStep) ∨
    (s.cpuState ≠ .halted ∧ s.pins.ready = true ∧ ∃ v, s.select = some v ∧
      t = { s.service v with stepResult := true }) ∨
    (s.cpuState = .waiting ∧ s.pins.ready = true ∧ s.select = none ∧ t = s.skipStep) ∨
    (s.cpuState = .ready ∧ s.pins.ready = true ∧ s.select = none ∧ s.fetchAndExecute = .next t)) := by
  unfold State.executeNext at e
  split at e
  · cases e
  next hd =>
  refine ⟨by simpa using hd, ?_⟩
  split at e
  · next h => cases e; exact .inl ⟨h, rfl⟩
  · next h =>
    split at e
    · next hr => cases e; exact .inr (.inl ⟨h, hr, rfl⟩)
    · next hr =>
      have hr : s.pins.ready = true := by simpa using hr
      split at e
      · next v hv => cases e; exact .inr (.inr (.inl ⟨h, hr, v, hv, rfl⟩))
      · next hv =>
        split at e
        · next hw => cases e; exact .inr (.inr (.inr (.inl ⟨hw, hr, hv, rfl⟩)))
        · next hw =>
          refine .inr (.inr (.inr (.inr ⟨?_, hr, hv, e⟩)))
          cases hc : s.cpuState with
          | ready => rfl
          | waiting => exact absurd hc hw
          | halted => exact absurd hc h

theorem andThen_next {o : Host.Outcome State Fault Refusal} {f : State → State} {t : State}
    (e : andThen o f = .next t) : ∃ u, o = .next u ∧ t = f u := by
  unfold andThen at e
  split at e <;> cases e
  exact ⟨_, rfl, rfl⟩

/-- The next move by cases: the engine's, a device's or the host's, from the state in which the move begins; only a
configuration that passes its check has one. -/
theorem step_cases {s t : State} (e : step s = .next t) : Config.failure vecReset s.cfg = none ∧
    ∃ u, (u = s.beginMove ∨ ∃ m, s.schedule = m :: u.schedule ∧ u = { s.beginMove with schedule := u.schedule }) ∧
      ((u.pauseFlag = true ∧ u.executeNext = .next t) ∨ (u.pauseFlag = false ∧ u.workerMove = .next t) ∨
        (∃ p l, s.schedule = .device p l :: u.schedule ∧ t = u.drivePin p l) ∨
        (∃ c, s.schedule = .host c :: u.schedule ∧ u.hostCommand c = .next t)) := by
  unfold step State.nextMove at e
  have engine : ∀ u : State, u.engineMove = .next t →
      (u.pauseFlag = true ∧ u.executeNext = .next t) ∨ (u.pauseFlag = false ∧ u.workerMove = .next t) := by
    intro u he
    unfold State.engineMove at he
    split at he
    · next hp => exact .inl ⟨hp, he⟩
    · next hp => exact .inr ⟨by simpa using hp, he⟩
  split at e
  · cases e
  next hc =>
  refine ⟨hc, ?_⟩
  split at e
  · refine ⟨s.beginMove, .inl rfl, ?_⟩
    rcases engine _ e with h | h
    · exact .inl h
    · exact .inr (.inl h)
  · next m rest hs =>
    refine ⟨{ s.beginMove with schedule := rest }, .inr ⟨m, hs, rfl⟩, ?_⟩
    cases m with
    | engine =>
      rcases engine _ e with h | h
      · exact .inl h
      · exact .inr (.inl h)
    | device p l => cases e; exact .inr (.inr (.inl ⟨p, l, hs, rfl⟩))
    | host c =>
      refine .inr (.inr (.inr ⟨c, hs, ?_⟩))
      simp only [State.move, State.hostMove] at e
      split at e
      · cases e
      · exact e

/-- A machine whose configuration fails its check has no move (spec/30_encoding.md R100). -/
theorem step_configRefused {s : State} {f : ConfigFailure} (h : Config.failure vecReset s.cfg = some f) :
    step s = .refused (.configRefused f) := by
  simp only [step, State.nextMove, h]

/-- The next move of a machine whose configuration has passed its check. -/
theorem step_of_config {s : State} (h : Config.failure vecReset s.cfg = none) :
    step s =
      match s.schedule with
      | [] => s.beginMove.move .engine
      | m :: rest => { s.beginMove with schedule := rest }.move m := by
  cases hs : s.schedule <;> simp only [step, State.nextMove, h, hs]

/-! ### The line cache, Pause and Halt -/

/-- GetLine changes nothing but the line cache. -/
theorem cacheLine_eq (s : State) (a : Long) : s.cacheLine a = { s with lineCache := (s.cacheLine a).lineCache } := by
  unfold State.cacheLine
  split
  · rfl
  · split <;> rfl

/-- refresh changes nothing but the line cache. -/
theorem refresh_eq (s : State) : s.refresh = { s with lineCache := s.refresh.lineCache } := by
  unfold State.refresh State.revalidate
  rw [cacheLine_eq]

/-- Pause, up to the line cache. -/
theorem pause_eq (s : State) :
    s.pause = { s with pauseFlag := true, ephemeral := none, lineCache := s.pause.lineCache } := by
  unfold State.pause
  rw [refresh_eq]

/-- What Halt can do as a host command: Halted and paused, with the line cache of a Pause in free-run. -/
theorem hostHalt_cases (s : State) :
    (s.pauseFlag = true ∧ s.hostHalt = s.halt) ∨
    (s.pauseFlag = false ∧ s.hostHalt = { s.halt with lineCache := s.pause.lineCache }) := by
  unfold State.hostHalt
  cases h : s.pauseFlag with
  | true => exact .inl ⟨rfl, rfl⟩
  | false =>
    refine .inr ⟨rfl, ?_⟩
    rw [if_neg (by decide), pause_eq]
    rfl

/-! ### What every ExecuteNext keeps -/

/-- A property that the engine's own operations keep, besides the handlers' primitives. -/
structure EngineKept (P : State → Prop) : Prop extends Kept P where
  skip : ∀ {s : State}, P s → P s.skipStep
  halted : ∀ {s : State}, P s → P { s with stepResult := false }
  service : ∀ {s : State} (v : Service), P s → P { s.service v with stepResult := true }
  note : ∀ {s : State} (op : Byte) (m : String), P s → P (s.noteDecoded op m)
  outOfRange : ∀ {s : State} (a : Option Long) (f : Long) (op : Option Byte), P s → P (s.raiseOutOfRange a f op)

theorem EngineKept.didFetch {P : State → Prop} (K : EngineKept P) {s : State} (as : List Long) (h : P s) :
    P (s.didFetch as) := by
  induction as generalizing s with
  | nil => exact h
  | cons a as ih => exact ih (K.didRead a 1 h)

theorem EngineKept.executeNext {P : State → Prop} (K : EngineKept P) {s t : State} (e : s.executeNext = .next t)
    (h : P s) : P t := by
  rcases (executeNext_cases e).2 with ⟨-, rfl⟩ | ⟨-, -, rfl⟩ | ⟨-, -, v, -, rfl⟩ | ⟨-, -, -, rfl⟩ | ⟨-, -, -, e⟩
  · exact K.halted h
  · exact K.skip h
  · exact K.service v h
  · exact K.skip h
  · rcases fetchAndExecute_cases e with ⟨-, rfl⟩ | ⟨d, -, -, ⟨-, e⟩ | ⟨-, -, ⟨f, -, rfl⟩ | ⟨-, e⟩⟩⟩
    · exact K.outOfRange _ _ _ h
    · exact exec_keeps K.toKept e (K.note _ _ (K.didRead _ _ h))
    · exact K.outOfRange _ _ _ (K.note _ _ (K.didRead _ _ h))
    · exact exec_keeps K.toKept e (K.didFetch _ (K.note _ _ (K.didRead _ _ h)))

end Sys2Proof.Machine
end

