-- ==== Sys2Proof/Laws/Operands.lean ====
section
/-! SUPPORT. One lemma per shared operation of the register ports, the operand access and the handlers: what it can
answer, said once. -/

namespace Sys2Proof.Machine

/-! ### Counts and widths -/

theorem validCount_iff (n : Nat) : validCount n = true ↔ n = 1 ∨ n = 2 ∨ n = 4 := by
  simp [validCount, or_assoc]

theorem badWidth_iff (r : Reg) (n : Nat) : r.badWidth n = true ↔ ¬(n = 1 ∨ n = 2 ∨ n = 4) ∨ r.width < 8 * n := by
  rw [← validCount_iff]; simp [Reg.badWidth]

theorem badWidth_false_iff (r : Reg) (n : Nat) :
    r.badWidth n = false ↔ (n = 1 ∨ n = 2 ∨ n = 4) ∧ 8 * n ≤ r.width := by
  rw [← validCount_iff]; simp [Reg.badWidth]

/-! ### Register ports -/

theorem xr_cases (s : State) (r : Reg) (n : Nat) :
    (r.badWidth n = true ∧ s.xr r n = .error n) ∨
      (r.badWidth n = false ∧ s.xr r n = .ok (lowBytes n (s.reg r))) := by
  unfold State.xr; cases h : r.badWidth n <;> simp

theorem xw_cases (s : State) (r : Reg) (n : Nat) (v : Long) :
    (r.badWidth n = true ∧ s.xw r n v = .error n) ∨
      (r.badWidth n = false ∧ s.xw r n v = .ok (s.setReg r (patchLow n (s.reg r) v))) := by
  unfold State.xw; cases h : r.badWidth n <;> simp

theorem xwCommit_cases (s : State) (u : Option Pending) (r : Reg) (n : Nat) (v : Long) :
    (r.badWidth n = true ∧ s.xwCommit u r n v = .error n) ∨
      (r.badWidth n = false ∧
        s.xwCommit u r n v = .ok ((s.applyPending u).setReg r (patchLow n (s.reg r) v))) := by
  unfold State.xwCommit; cases h : r.badWidth n <;> simp

theorem setNZ_cases (s : State) (v : Long) (w : Nat) :
    (validCount w = false ∧ s.setNZ v w = .error w) ∨
      (validCount w = true ∧
        s.setNZ v w =
          .ok { s with sr := { s.sr with z := lowBytes w v == 0, n := v.getLsbD (8 * w - 1) } }) := by
  unfold State.setNZ SR.setNZ; cases h : validCount w <;> simp

theorem setNZUnlessSr_cases (s : State) (r : Reg) (v : Long) (w : Nat) :
    (r = .sr ∧ s.setNZUnlessSr r v w = .ok s) ∨ (r ≠ .sr ∧ s.setNZUnlessSr r v w = s.setNZ v w) := by
  unfold State.setNZUnlessSr; by_cases h : r = .sr <;> simp [h]

/-! ### Operand access -/

/-- What a read of an operand can answer: a register or an immediate leaves the state, a memory operand makes one
read; a count that is not allowed is reported. -/
theorem readOp_cases (s : State) (op : Operand) (w : Nat) :
    (∃ r, op = .reg r ∧ r.badWidth w = false ∧ s.readOp op w = .ok (lowBytes w (s.reg r), s)) ∨
    (∃ ea, op = .mem ea ∧ validCount w = true ∧ s.readOp op w = .ok (s.peek ea w, s.didRead ea w)) ∨
    (∃ v, op = .imm v ∧ s.readOp op w = .ok (lowBytes w v, s)) ∨
    s.readOp op w = .error w := by
  cases op with
  | reg r => rcases xr_cases s r w with ⟨h, e⟩ | ⟨h, e⟩ <;> simp [State.readOp, e, h]
  | mem ea => cases h : validCount w <;> simp [State.readOp, h]
  | imm v => simp [State.readOp]
  | noOperand => simp [State.readOp]

/-- What a write of an operand can answer: a register write, one memory write, or the count reported. -/
theorem writeOp_cases (s : State) (op : Operand) (w : Nat) (v : Long) :
    (∃ r, op = .reg r ∧ r.badWidth w = false ∧
      s.writeOp op w v = .ok (s.setReg r (patchLow w (s.reg r) v))) ∨
    (∃ ea, op = .mem ea ∧ validCount w = true ∧ s.writeOp op w v = .ok (s.memWrite ea w v)) ∨
    s.writeOp op w v = .error w := by
  cases op with
  | reg r => rcases xw_cases s r w v with ⟨h, e⟩ | ⟨h, e⟩ <;> simp [State.writeOp, e, h]
  | mem ea => cases h : validCount w <;> simp [State.writeOp, h]
  | imm v => simp [State.writeOp]
  | noOperand => simp [State.writeOp]

/-- A STORE writes its operand as writeOp does, unless that is SR. -/
theorem storeOp_eq {op : Operand} (h : op ≠ .reg .sr) (s : State) (w : Nat) (v : Long) :
    s.storeOp op w v = s.writeOp op w v := by
  unfold State.storeOp
  cases s.writeOp op w v <;> simp [h]

/-- What a STORE to RegDirect(SR) can answer: the error, or SR written or left, as the open constant says. -/
theorem storeOp_sr (s : State) (w : Nat) (v : Long) :
    (Reg.sr.badWidth w = true ∧ s.storeOp (.reg .sr) w v = .error w) ∨
    (Reg.sr.badWidth w = false ∧
      s.storeOp (.reg .sr) w v =
        .ok (if Config.storeWritesSr = false then s else s.setReg .sr (patchLow w (s.reg .sr) v))) := by
  rcases xw_cases s .sr w v with ⟨h, e⟩ | ⟨h, e⟩ <;> simp [State.storeOp, State.writeOp, e, h]

/-! ### An instruction's transaction -/

/-- Where the handler runs: the pc at the next instruction. -/
abbrev State.advanced (s : State) (d : Descriptor) : State := s.setPc (s.pc + BitVec.ofNat 32 d.length)

theorem runHandler_done {d : Descriptor} {f : State → HandlerResult} {s t : State}
    (h : f (s.advanced d) = .done t) :
    runHandler d f s = .next { t.charge d.cycles with stepResult := true } := by
  unfold runHandler; simp only [h]

theorem runHandler_raised {d : Descriptor} {f : State → HandlerResult} {s t : State} {n : Nat}
    (h : f (s.advanced d) = .raised n t) :
    runHandler d f s =
      .next (s.raiseError t.bus
        { code := .invalidOperandWidth, instrAddr := some s.pc, faultAddr := none, opcode := some d.opcode }) := by
  unfold runHandler; simp only [h]

theorem runHandler_refused {d : Descriptor} {f : State → HandlerResult} {s : State} {r : Refusal}
    (h : f (s.advanced d) = .refused r) : runHandler d f s = .refused r := by
  unfold runHandler; simp only [h]

/-- Everything an instruction's transaction can answer with a next state: the handler's state with the cycles
charged, or the start state with InvalidOperandWidth recorded. -/
theorem runHandler_next {d : Descriptor} {f : State → HandlerResult} {s t : State} (e : runHandler d f s = .next t) :
    (∃ u, f (s.advanced d) = .done u ∧ t = { u.charge d.cycles with stepResult := true }) ∨
    (∃ n u, f (s.advanced d) = .raised n u ∧
      t = s.raiseError u.bus
        { code := .invalidOperandWidth, instrAddr := some s.pc, faultAddr := none, opcode := some d.opcode }) := by
  unfold runHandler at e
  split at e
  · next u hu => cases e; exact .inl ⟨u, hu, rfl⟩
  · next n u hu => cases e; exact .inr ⟨n, u, hu, rfl⟩
  · cases e

/-- LOAD and STORE of a register that has the width, with an operand that can be read: what they leave. -/
theorem loadInto_done {r : Reg} {d : Descriptor} {sig v : Long} {s m : State} (hr : r.badWidth d.w = false)
    (hv : s.readOp (s.operand d sig) d.w = .ok (v, m)) :
    loadInto r d sig s =
      let x := (m.applyPending (s.pending d)).setReg r
        (patchLow d.w (m.reg r) v)
      .done (if r = .sr then x
        else { x with sr := { x.sr with z := lowBytes d.w v == 0, n := v.getLsbD (8 * d.w - 1) } }) := by
  have hw : validCount d.w = true := (validCount_iff _).2 ((badWidth_false_iff _ _).1 hr).1
  unfold loadInto
  simp only [hv, State.xwCommit, hr, Bool.false_eq_true, if_false]
  by_cases h : r = .sr
  · simp [State.setNZUnlessSr, h]
  · simp [State.setNZUnlessSr, h, State.setNZ, SR.setNZ, hw]

theorem storeFrom_done {r : Reg} {d : Descriptor} {sig : Long} {s x : State} (hr : r.badWidth d.w = false)
    (hx : (s.applyPending (s.pending d)).storeOp (s.operand d sig) d.w (lowBytes d.w (s.reg r)) = .ok x) :
    storeFrom r d sig s =
      .done (if r = .sr then x
        else { x with
          sr := { x.sr with
            z := lowBytes d.w (lowBytes d.w (s.reg r)) == 0
            n := (lowBytes d.w (s.reg r)).getLsbD (8 * d.w - 1) } }) := by
  have hw : validCount d.w = true := (validCount_iff _).2 ((badWidth_false_iff _ _).1 hr).1
  unfold storeFrom
  simp only [State.xr, hr, Bool.false_eq_true, if_false, hx]
  by_cases h : r = .sr
  · simp [State.setNZUnlessSr, h]
  · simp [State.setNZUnlessSr, h, State.setNZ, SR.setNZ, hw]

end Sys2Proof.Machine
end

