-- ==== Sys2Proof/Laws/PerInstr.lean ====
section
/-! SUPPORT. What holds of every instruction as syntax, one lemma per constructor. -/

namespace Sys2Proof.Laws.EncodeLength

/-- The bytes of a well-formed instruction: its opcode byte first, as many as its descriptor's length, one to five
(spec/30_encoding.md R91, R94, R95). -/
def Statement (i : Instr) : Prop :=
  i.wf = true →
    (encode i).head? = some i.descriptor.opcode ∧ (encode i).length = i.descriptor.length ∧
      1 ≤ (encode i).length ∧ (encode i).length ≤ 5

/-- A row's bytes have the row's shape when the three facts compute. -/
theorem shape {i : Instr} (ho : (encode i).head? = some i.descriptor.opcode)
    (hl : (encode i).length = i.descriptor.length)
    (hb : (Nat.ble 1 (encode i).length && Nat.ble (encode i).length 5) = true) :
    (encode i).head? = some i.descriptor.opcode ∧ (encode i).length = i.descriptor.length ∧
      1 ≤ (encode i).length ∧ (encode i).length ≤ 5 := by
  rw [Bool.and_eq_true, Nat.ble_eq, Nat.ble_eq] at hb
  exact ⟨ho, hl, hb.1, hb.2⟩

theorem brk : Statement .brk := fun _ => by decide

theorem stop : Statement .stop := fun _ => by decide

theorem cop : Statement .cop := fun _ => by decide

theorem rti : Statement .rti := fun _ => by decide

theorem jmps (a16 : Half) : Statement (.jmps a16) := fun _ => shape rfl rfl rfl

theorem jmpl (a32 : Long) : Statement (.jmpl a32) := fun _ => shape rfl rfl rfl

theorem jmpv (a32 : Long) : Statement (.jmpv a32) := fun _ => shape rfl rfl rfl

theorem call (a32 : Long) : Statement (.call a32) := fun _ => shape rfl rfl rfl

theorem ret : Statement .ret := fun _ => by decide

theorem loadLImmD0 (imm32 : Long) : Statement (.loadLImmD0 imm32) := fun _ => shape rfl rfl rfl

theorem loadBImmD1 (imm8 : Byte) : Statement (.loadBImmD1 imm8) := fun _ => shape rfl rfl rfl

theorem loadWPostIncA0D0 : Statement .loadWPostIncA0D0 := fun _ => by decide

theorem storeLD0PreDecA1 : Statement .storeLD0PreDecA1 := fun _ => by decide

theorem loadLImmA0 (imm32 : Long) : Statement (.loadLImmA0 imm32) := fun _ => shape rfl rfl rfl

theorem loadLImmA1 (imm32 : Long) : Statement (.loadLImmA1 imm32) := fun _ => shape rfl rfl rfl

theorem storeWD0Disp16A0 (d16 : Half) : Statement (.storeWD0Disp16A0 d16) := fun _ => shape rfl rfl rfl

theorem loadLAbsLongD2 (a32 : Long) : Statement (.loadLAbsLongD2 a32) := fun _ => shape rfl rfl rfl

theorem storeBD0AbsShort (a16 : Half) : Statement (.storeBD0AbsShort a16) := fun _ => shape rfl rfl rfl

theorem loadLIndexedA0D1D3 (d8 : Byte) : Statement (.loadLIndexedA0D1D3 d8) := fun _ => shape rfl rfl rfl

theorem loadWPcDisp16D4 (d16 : Half) : Statement (.loadWPcDisp16D4 d16) := fun _ => shape rfl rfl rfl

theorem loadBIndirectA0D5 : Statement .loadBIndirectA0D5 := fun _ => by decide

theorem loadLD0D6 : Statement .loadLD0D6 := fun _ => by decide

theorem loadWDisp8A0D7 (d8 : Byte) : Statement (.loadWDisp8A0D7 d8) := fun _ => shape rfl rfl rfl

theorem loadLPcIndexedD1D2 (d8 : Byte) : Statement (.loadLPcIndexedD1D2 d8) := fun _ => shape rfl rfl rfl

theorem pushLD0 : Statement .pushLD0 := fun _ => by decide

theorem pullLD5 : Statement .pullLD5 := fun _ => by decide

theorem pushD0Count3 : Statement .pushD0Count3 := fun _ => by decide

theorem pushWSr : Statement .pushWSr := fun _ => by decide

theorem pullWSr : Statement .pullWSr := fun _ => by decide

theorem loadWImmSr (imm16 : Half) : Statement (.loadWImmSr imm16) := fun _ => shape rfl rfl rfl

theorem unimpl (opcode : Byte) : Statement (.unimpl opcode) := fun _ => shape rfl rfl rfl

theorem other (d : Descriptor) (sig : Long) : Statement (.other d sig) := by
  intro h
  simp only [Instr.wf, Bool.and_eq_true, Option.isNone_iff_eq_none] at h
  obtain ⟨h1, h5, -, -⟩ := Descriptor.bounds h.1.2
  have hl : (encode (.other d sig)).length = d.length := by
    simp only [encode, List.length_cons, bytesBE_length]; omega
  exact ⟨rfl, hl, by omega, by omega⟩

theorem configured (d : Descriptor) (sig : Long) : Statement (.configured d sig) := by
  intro h
  simp only [Instr.wf, Bool.and_eq_true, Option.isNone_iff_eq_none] at h
  obtain ⟨h1, h5, -, -⟩ := Descriptor.bounds h.1.2
  have hl : (encode (.configured d sig)).length = d.length := by
    simp only [encode, List.length_cons, bytesBE_length]; omega
  exact ⟨rfl, hl, by omega, by omega⟩

end Sys2Proof.Laws.EncodeLength
end

