-- ==== Sys2Proof/Tests/Slice0.lean ====
section
/-! SUPPORT. Tests of the model against words and vectors of the spec (expected values from spec/95_test_vectors.md
by the vector's id, and from the encoding table of 30_encoding.md R106), refusals of ill-formed terms, and for every
statement with hypotheses a witness that meets them. -/

namespace Sys2Proof.Tests

open Sys2Proof Sys2Proof.Machine

/-! ### Helpers -/

/-- Bytes at an address. -/
def put (a : Nat) (bytes : List Byte) (s : State) : State :=
  { s with mem := bytes.zipIdx.foldl (fun m p => memPut m (a + p.2) p.1) s.mem }

/-- The base state of 95_test_vectors.md: right after Reset with the reset vector 0x1000. -/
def base : State := { State.reset with pc := 0x1000, mem := [(0x00FFFFF2, 0x10)] }

/-- The base state with code at 0x1000. -/
def code (bytes : List Byte) : State := put 0x1000 bytes base

/-- A next state was reached and has the property. -/
def sees (o : Host.Outcome State Fault Refusal) (f : State → Bool) : Bool :=
  match o with
  | .next s => f s
  | .fault _ => false
  | .refused _ => false

/-- The step was refused with this reason. -/
def refusedWith (o : Host.Outcome State Fault Refusal) (r : Refusal) : Bool :=
  match o with
  | .next _ => false
  | .fault _ => false
  | .refused q => q == r

/-- The base state with one host command to come. -/
def commanded (c : HostCommand) (s : State) : State := { s with schedule := [.host c] }

/-! ### Well-formedness: each check refuses a term -/

theorem test_wf1_length : { rowStop with baseLength := 6 }.failure = some .wf1Length ∧
    { rowStop with baseLength := 0 }.failure = some .wf1Length ∧
    { rowStop with baseLength := 0, lenAdj := true, actionReg := some .sr }.failure = some .wf1Length := by decide

theorem test_wf2_fields : { rowJmpl with baseLength := 4 }.failure = some .wf2FieldsFit := by decide

theorem test_wf3_width : { rowLoadLD0D6 with w := 3 }.failure = some .wf3Width := by decide

theorem test_wf4_brk : { rowStop with opcode := 0 }.failure = some .wf4Brk ∧
    { rowBrk with stepOver := true }.failure = some .wf4Brk := by decide

theorem test_wf5_operands : { rowLoadLD0D6 with actionReg := none }.failure = some .wf5Operands ∧
    { rowPushLD0 with mode := .regDirect (.d 1) }.failure = some .wf5Operands ∧
    { rowJmps with mode := .absLong, baseLength := 5 }.failure = some .wf5Operands := by decide

theorem test_wf6_immediate :
    { rowLoadLImmD0 with kind := .store }.failure = some .wf6Immediate := by decide

theorem test_wf7_index : Rom.failure [rowBrk, rowCop, rowStop] = some (.wf7Index, 0x01) := by decide

theorem test_rom_needs_brk : Rom.failure [rowStop] = some (.wf4Brk, 0) := by decide

theorem test_instr_wf_refuses :
    (Instr.other rowStop 0).wf = false ∧ (Instr.configured { rowStop with kind := .other } 0).wf = false ∧
      (Instr.configured { rowLoadBImmD1 with opcode := 0x40 } 0x100).wf = false ∧
      (Instr.configured { rowLoadLD0D6 with w := 3 } 0).wf = false := by decide

theorem test_config_refuses :
    Config.failure vecReset { configP0 with memLimit := 0 } = some .memLimitRange ∧
      Config.failure vecReset { configP0 with pcBits := .b24, memLimit := 0x01000001 } = some .memLimitRange ∧
      Config.failure vecReset { configP0 with vecIrq := 0x00FFFFF3 } = some .vectorsOverlap ∧
      Config.failure vecReset { configP0 with irqLevel := 0 } = some .irqLevelRange ∧
      Config.failure vecReset { configP0 with rom := [rowStop] } = some (.rom .wf4Brk 0) := by decide

/-- A row of kind OTHER used by tests. -/
def rowOther : Descriptor :=
  { opcode := 0x40, mnemonic := "ADDQ", baseLength := 2, mode := .indirect (.an 0), actionReg := none
    lenAdj := false, w := 1, count := 0, kind := .other, stepOver := false, cycles := 6 }

/-- A handler of that row: it reads its operand, writes it to D1 and sets the flags from it. -/
def progOther : OtherProgram := [.resolve, .readOp 1, .writeReg (.d 1) 1 0, .setNZ 0 1]

theorem test_other_raises :
    (progOther.all fun o => !o.mayRaise rowOther) = true ∧ (OtherOp.memWrite 0 3 0).mayRaise rowOther = true ∧
      (OtherOp.readReg .sr 4).mayRaise rowOther = true ∧ OtherOp.ea.mayRaise rowOther = false ∧
      (OtherOp.fail 3).mayRaise rowOther = true := by decide

/-! ### Decoding: words written out from 30_encoding.md R106 -/

theorem test_decode_control :
    decode testRom [0x00] = .ok (.brk, []) ∧ decode testRom [0x01] = .ok (.stop, []) ∧
      decode testRom [0x02] = .ok (.cop, []) ∧ decode testRom [0x03] = .ok (.rti, []) ∧
      decode testRom [0x04, 0x12, 0x34] = .ok (.jmps 0x1234, []) ∧
      decode testRom [0x05, 0x00, 0x00, 0x08, 0x00] = .ok (.jmpl 0x00000800, []) ∧
      decode testRom [0x06, 0x00, 0x00, 0x30, 0x00] = .ok (.jmpv 0x00003000, []) ∧
      decode testRom [0x07, 0x00, 0x00, 0x10, 0x20] = .ok (.call 0x00001020, []) ∧
      decode testRom [0x08] = .ok (.ret, []) := by decide

theorem test_decode_moves_low :
    decode testRom [0x10, 0x80, 0x00, 0x00, 0x01] = .ok (.loadLImmD0 0x80000001, []) ∧
      decode testRom [0x11, 0x7F] = .ok (.loadBImmD1 0x7F, []) ∧
      decode testRom [0x12] = .ok (.loadWPostIncA0D0, []) ∧
      decode testRom [0x13] = .ok (.storeLD0PreDecA1, []) ∧
      decode testRom [0x14, 0x00, 0x00, 0x20, 0x00] = .ok (.loadLImmA0 0x00002000, []) ∧
      decode testRom [0x15, 0x00, 0x00, 0x30, 0x00] = .ok (.loadLImmA1 0x00003000, []) ∧
      decode testRom [0x16, 0xFF, 0xFE] = .ok (.storeWD0Disp16A0 0xFFFE, []) ∧
      decode testRom [0x17, 0x00, 0x00, 0x20, 0x00] = .ok (.loadLAbsLongD2 0x00002000, []) ∧
      decode testRom [0x18, 0x12, 0x34] = .ok (.storeBD0AbsShort 0x1234, []) := by decide

theorem test_decode_moves_high :
    decode testRom [0x19, 0x04] = .ok (.loadLIndexedA0D1D3 0x04, []) ∧
      decode testRom [0x1A, 0x00, 0x10] = .ok (.loadWPcDisp16D4 0x0010, []) ∧
      decode testRom [0x1B] = .ok (.loadBIndirectA0D5, []) ∧ decode testRom [0x1C] = .ok (.loadLD0D6, []) ∧
      decode testRom [0x1D, 0xF0] = .ok (.loadWDisp8A0D7 0xF0, []) ∧
      decode testRom [0x1E, 0x02] = .ok (.loadLPcIndexedD1D2 0x02, []) ∧
      decode testRom [0x30, 0x27, 0x00] = .ok (.loadWImmSr 0x2700, []) := by decide

theorem test_decode_stack :
    decode testRom [0x20] = .ok (.pushLD0, []) ∧ decode testRom [0x21] = .ok (.pullLD5, []) ∧
      decode testRom [0x22] = .ok (.pushD0Count3, []) ∧ decode testRom [0x23] = .ok (.pushWSr, []) ∧
      decode testRom [0x24] = .ok (.pullWSr, []) := by decide

theorem test_decode_rest_and_refusals :
    decode testRom [0xFF, 0x01] = .ok (.unimpl 0xFF, [0x01]) ∧ decode testRom [0x09] = .ok (.unimpl 0x09, []) ∧
      decode testRom [] = .error .noOpcodeByte ∧
      decode testRom [0x04, 0x12] = .error (.signatureTruncated 0x04) ∧
      decode [rowBrk, { rowStop with baseLength := 9 }] [0x01] = .error (.rowIllFormed .wf1Length 0x01) ∧
      decode [rowBrk, rowOther] [0x40, 0x07, 0x55] = .ok (.other rowOther 0x07, [0x55]) := by decide

theorem test_table_word :
    decodeTableWord 40 0x0100008010 = some (.loadLImmD0 0x80000001) ∧
      decodeTableWord 8 0x10 = some (.loadLImmD0 0) ∧ decodeTableWord 8 0xFF = some (.unimpl 0xFF) := by decide

/-- The placed instruction is the first one after reset: LOAD.B #0x7F,D1. -/
theorem test_fetch_word :
    sees (step (State.reset.withFetchWord 16 0x7F11)) (fun t => t.d[1] == 0x7F && t.pc == 2) = true := by decide

/-! ### Flags and ports -/

/-- V-FLAG-1, V-FLAG-3, V-FLAG-4, V-FLAG-10, V-FLAG-7. -/
theorem test_flags :
    SR.setNZ SR.zero 0x100 1 = .ok (SR.unpack 0x0004) ∧ SR.setNZ SR.zero 0x180 1 = .ok (SR.unpack 0x0008) ∧
      SR.setNZ SR.zero 0x8000 2 = .ok (SR.unpack 0x0008) ∧
      SR.setNZ (SR.unpack 0x0013) 0x80 1 = .ok (SR.unpack 0x001B) ∧ SR.setNZ SR.zero 5 3 = .error 3 := by decide

/-- V-FLAG-6. -/
theorem test_pack :
    (SR.unpack 0x2704).pack = 0x2704 ∧ (SR.unpack 0xFFFF).pack = 0xF71F ∧ (SR.unpack 0x08E0).pack = 0 ∧
      (SR.unpack 0x001F).x = true ∧ (SR.unpack 0x2704).i = 7 ∧ (SR.unpack 0x2704).s = true := by decide

/-- V-PORT-1, V-PORT-2, V-PORT-4. -/
theorem test_ports :
    let s := { base with d := base.d.set 0 0x12345678 }
    s.xr (.d 0) 1 = .ok 0x78 ∧ s.xr (.d 0) 2 = .ok 0x5678 ∧ s.xr .sr 4 = .error 4 ∧ s.xr (.d 0) 3 = .error 3 ∧
      (match s.xw (.d 0) 2 0xABCD with
        | .ok t => t.d[0] == 0x1234ABCD
        | .error _ => false) = true := by decide

/-- V-PORT-6. -/
theorem test_active_stack_pointer :
    let s := { base with ssp := 0x8000, usp := 0x9000, sr := SR.unpack 0x2000 }
    s.xr .a7 4 = .ok 0x8000 ∧ { s with sr := SR.unpack 0 }.xr .a7 4 = .ok 0x9000 := by decide

/-! ### Addressing modes and moves: V-AM-1 to V-AM-15 -/

theorem test_load_imm_d0 :
    sees (step (code [0x10, 0x80, 0x00, 0x00, 0x01])) (fun t =>
      t.d[0] == 0x80000001 && t.sr.pack == 0x0008 && t.pc == 0x1005 && t.cycles == 4 && t.stepResult) = true := by
  decide

theorem test_load_imm_b :
    sees (step (code [0x11, 0x00])) (fun t => t.sr.pack == 0x0004 && t.pc == 0x1002) = true ∧
      sees (step { code [0x11, 0x00] with d := base.d.set 1 0xFFFFFF12 }) (fun t => t.d[1] == 0xFFFFFF00) = true := by
  decide

theorem test_post_increment :
    let s := put 0x2000 [0x80, 0x01] (code [0x12])
    sees (step { s with a := s.a.set 0 0x2000, d := s.d.set 0 0xFFFFFFFF }) (fun t =>
      t.d[0] == 0xFFFF8001 && t.a[0] == 0x2002 && t.sr.pack == 0x0008 && t.pc == 0x1001) = true := by decide

theorem test_pre_decrement :
    let s := code [0x13]
    sees (step { s with a := s.a.set 1 0x3000, d := s.d.set 0 0x11223344 }) (fun t =>
      t.a[1] == 0x2FFC && t.peek 0x2FFC 4 == 0x11223344 && t.sr.pack == 0 && t.pc == 0x1001) = true := by decide

theorem test_load_a0_a1 :
    sees (step (code [0x14, 0x00, 0x00, 0x20, 0x00])) (fun t => t.a[0] == 0x2000 && t.a[1] == 0) = true ∧
      sees (step (code [0x15, 0x00, 0x00, 0x30, 0x00])) (fun t => t.a[1] == 0x3000 && t.a[0] == 0) = true := by decide

theorem test_disp16_negative :
    let s := code [0x16, 0xFF, 0xFE]
    sees (step { s with a := s.a.set 0 0x2000, d := s.d.set 0 0xABCD }) (fun t =>
      t.peek 0x1FFE 2 == 0xABCD && t.a[0] == 0x2000 && t.sr.pack == 0x0008 && t.pc == 0x1003) = true := by decide

theorem test_abs_long :
    sees (step (put 0x2000 [0xDE, 0xAD, 0xBE, 0xEF] (code [0x17, 0x00, 0x00, 0x20, 0x00]))) (fun t =>
      t.d[2] == 0xDEADBEEF && t.sr.pack == 0x0008 && t.pc == 0x1005) = true := by decide

theorem test_abs_short :
    let s := code [0x18, 0x12, 0x34]
    sees (step { s with d := s.d.set 0 0xAA }) (fun t =>
      t.readByte 0x1234 == 0xAA && t.sr.pack == 0x0008 && t.pc == 0x1003) = true := by decide

theorem test_abs_short_sign :
    let s := code [0x18, 0x80, 0x00]
    sees (step { s with d := s.d.set 0 1 }) (fun t => t.readByte 0xFFFF8000 == 1 && t.sr.pack == 0) = true := by decide

theorem test_indexed_word :
    let s := put 0x2002 [0x01, 0x02, 0x03, 0x04] (code [0x19, 0x04])
    sees (step { s with a := s.a.set 0 0x2000, d := s.d.set 1 0x0001FFFE }) (fun t =>
      t.d[3] == 0x01020304 && t.sr.pack == 0 && t.pc == 0x1002) = true := by decide

theorem test_pc_disp16 :
    let s := put 0x1010 [0x11, 0x11, 0x11, 0x00, 0x00, 0x22] (code [0x1A, 0x00, 0x10])
    sees (step { s with d := s.d.set 4 0x12345678 }) (fun t =>
      t.d[4] == 0x12340000 && t.sr.pack == 0x0004 && t.pc == 0x1003) = true := by decide

theorem test_indirect_byte :
    let s := code [0x1B]
    sees (step { s with a := s.a.set 0 0x2000, d := s.d.set 5 0xFFFFFFFF }) (fun t =>
      t.d[5] == 0xFFFFFF00 && t.sr.pack == 0x0004) = true := by decide

theorem test_register_direct :
    let s := code [0x1C]
    sees (step { s with d := s.d.set 0 0xFFFFFFFF }) (fun t =>
      t.d[6] == 0xFFFFFFFF && t.sr.pack == 0x0008 && t.pc == 0x1001) = true := by decide

theorem test_disp8_negative :
    let s := put 0x2000 [0x12, 0x34] (code [0x1D, 0xF0])
    sees (step { s with a := s.a.set 0 0x2010 }) (fun t => t.d[7] == 0x1234 && t.sr.pack == 0) = true := by decide

theorem test_pc_indexed_long :
    let s := put 0x1014 [0xCA, 0xFE, 0xBA, 0xBE] (code [0x1E, 0x02])
    sees (step { s with d := s.d.set 1 0x10 }) (fun t => t.d[2] == 0xCAFEBABE && t.sr.n) = true := by decide

/-- The row of V-AM-14. -/
def rowIndexedAn : Descriptor :=
  { opcode := 0x40, mnemonic := "LOAD.L d8(A0,A0.L),D3", baseLength := 2, mode := .indexed (.an 0) (.addr (.an 0)) .l
    actionReg := some (.d 3), lenAdj := false, w := 4, count := 0, kind := .load, stepOver := false, cycles := 4 }

theorem test_indexed_an :
    let s := put 0x2000 [0x00, 0x00, 0x00, 0x07] (code [0x40, 0x00])
    sees (step { s with cfg := { s.cfg with rom := testRom ++ [rowIndexedAn] }, a := s.a.set 0 0x1000 }) (fun t =>
      t.d[3] == 7 && t.pc == 0x1002) = true := by decide

/-- The row of V-AM-15. -/
def rowPostIncSame : Descriptor :=
  { opcode := 0x40, mnemonic := "LOAD.L (A0)+,A0", baseLength := 1, mode := .postInc (.an 0)
    actionReg := some (.a 0), lenAdj := false, w := 4, count := 0, kind := .load, stepOver := false, cycles := 4 }

theorem test_post_increment_same_register :
    let s := put 0x2000 [0x00, 0x00, 0x50, 0x00] (code [0x40])
    sees (step { s with cfg := { s.cfg with rom := testRom ++ [rowPostIncSame] }, a := s.a.set 0 0x2000 }) (fun t =>
      t.a[0] == 0x5000) = true := by decide

/-- 41_addressing.md R158 and 43_handlers.md R213: a narrow LOAD (A0)+ into A0 keeps A0's upper bytes from before the
increment. -/
theorem test_post_increment_same_register_narrow :
    let c := { base.cfg with rom := testRom ++ [{ rowPostIncSame with w := 2 }] }
    let s := put 0x1FFFE [0x50, 0x00] (code [0x40])
    sees (step { s with cfg := c, a := s.a.set 0 0x1FFFE }) (fun t => t.a[0] == 0x00015000) = true ∧
      (let c := { base.cfg with rom := testRom ++ [{ rowPostIncSame with w := 1 }] };
        let s := put 0xFFFF [0x80] (code [0x40]);
        sees (step { s with cfg := c, a := s.a.set 0 0xFFFF }) (fun t => t.a[0] == 0x0000FF80)) = true := by decide

theorem test_load_sr :
    sees (step (code [0x30, 0x27, 0x00])) (fun t =>
      t.sr.pack == 0x2700 && t.pc == 0x1003 && t.reg .a7 == t.ssp && t.cycles == 4) = true := by decide

/-! ### Handler kinds: V-H-1 to V-H-16 -/

theorem test_brk :
    let s := put 0x00FFFFE4 [0x00, 0x00, 0x20, 0x00] { base with pc := 0x0800 }
    sees (step s) (fun t =>
      t.ssp == 0xFFFC && t.peek 0xFFFC 4 == 0x801 && t.sr.pack == 0x2000 && t.pc == 0x2000 && t.usp == 0x10000 &&
        t.lastDecoded == some { address := 0x0800, opcode := 0, mnemonic := "BRK" } && t.cycles == 4) = true := by
  decide

theorem test_cop :
    let s := put 0x00FFFFE0 [0x00, 0x00, 0x12, 0x00] (put 0x1004 [0x02] base)
    sees (step { s with pc := 0x1004, sr := SR.unpack 0x2000 }) (fun t =>
      t.ssp == 0xFFFC && t.peek 0xFFFC 4 == 0x1005 && t.pc == 0x1200) = true := by decide

theorem test_stop :
    sees (step (code [0x01])) (fun t => t.cpuState == .waiting && t.pc == 0x1001 && t.cycles == 4) = true := by decide

theorem test_push :
    let s := code [0x20]
    sees (step { s with d := s.d.set 0 0x8001 }) (fun t =>
      t.usp == 0xFFFC && t.ssp == 0x10000 && t.peek 0xFFFC 4 == 0x8001 && t.sr.pack == 0) = true := by decide

theorem test_push_sr :
    sees (step { code [0x23] with sr := SR.unpack 0x2704 }) (fun t =>
      t.ssp == 0xFFFE && t.peek 0xFFFE 2 == 0x2704) = true := by decide

theorem test_pull :
    sees (step { put 0xFFFC [0x00, 0x00, 0x80, 0x01] (code [0x21]) with usp := 0xFFFC }) (fun t =>
      t.d[5] == 0x8001 && t.usp == 0x10000) = true := by decide

theorem test_pull_sr :
    sees (step { put 0xFFFE [0x00, 0x1F] (code [0x24]) with ssp := 0xFFFE, sr := SR.unpack 0x2000 }) (fun t =>
      t.ssp == 0x10000 && t.usp == 0x10000 && t.sr.pack == 0x001F) = true := by decide

theorem test_rti :
    sees (step { put 0xFFFC [0x00, 0x00, 0x10, 0x04] (code [0x03]) with ssp := 0xFFFC, sr := SR.unpack 0x2100 })
      (fun t => t.pc == 0x1004 && t.ssp == 0x10000 && t.sr.pack == 0x2100) = true := by decide

theorem test_jumps :
    sees (step (code [0x04, 0x20, 0x00])) (fun t => t.pc == 0x2000) = true ∧
      sees (step (code [0x05, 0x00, 0x00, 0x08, 0x00])) (fun t => t.pc == 0x0800) = true ∧
      sees (step (put 0x3000 [0x00, 0x00, 0x12, 0x34] (code [0x06, 0x00, 0x00, 0x30, 0x00])))
        (fun t => t.pc == 0x1234 && !t.pins.vectorPull && t.bus.any fun b => b.vectorPull) = true := by decide

/-- V-ENG-5: the sign extension of a short jump, at 32 and at 24 bits. -/
theorem test_jump_short_sign :
    (base.jumpShort 0x8000).pc = 0xFFFF8000 ∧ (base.jumpShort 0x7FFF).pc = 0x7FFF ∧
      ({ base with cfg := { configP0 with pcBits := .b24 } }.jumpShort 0x8000).pc = 0xFF8000 := by decide

theorem test_call :
    sees (step (code [0x07, 0x00, 0x00, 0x10, 0x20])) (fun t =>
      t.usp == 0xFFFC && t.peek 0xFFFC 4 == 0x1005 && t.pc == 0x1020) = true := by decide

theorem test_ret :
    sees (step { put 0xFFFC [0x00, 0x00, 0x10, 0x05] (code [0x08]) with usp := 0xFFFC })
      (fun t => t.pc == 0x1005 && t.usp == 0x10000) = true := by decide

theorem test_unimpl :
    sees (step (code [0xFF])) (fun t =>
      t.lastError ==
          some { code := .unimplementedOpcode, instrAddr := some 0x1000, faultAddr := some 0x1000
                 opcode := some 0xFF } &&
        t.pc == 0x1000 && t.cpuState == .halted && t.pauseFlag && t.cycles == 0 &&
        t.lastDecoded == some { address := 0x1000, opcode := 0xFF, mnemonic := "UNIMPL" }) = true := by decide

/-- A state with a handler for rowOther. -/
def withHandler (d : Descriptor) (prog : OtherProgram) (s : State) : State :=
  { s with cfg := { s.cfg with rom := testRom ++ [d], others := [(0x40, prog)] } }

/-- Kind OTHER: progOther loads a byte; an opcode without a handler is refused (43_handlers.md R215), and a handler that
uses an operand it has not resolved reports an error. -/
theorem test_other :
    let s := put 0x2000 [0x80] (code [0x40, 0x07])
    sees (step (withHandler rowOther progOther { s with a := s.a.set 0 0x2000 }))
        (fun t => t.d[1] == 0x80 && t.sr.pack == 0x0008 && t.pc == 0x1002 && t.cycles == 6) = true ∧
      refusedWith (step { s with cfg := { s.cfg with rom := testRom ++ [rowOther] } }) (.otherUndefined 0x40) = true ∧
      sees (step (withHandler rowOther [.const 0, .memWrite 0 1 0, .readOp 1] s)) (fun t =>
        !t.stepResult && t.mem == s.mem && t.cpuState == .halted && t.bus.all fun b => !b.isWrite) = true := by
  decide

/-- A row of kind OTHER through (A0)+. -/
def rowOtherPostInc : Descriptor := { rowOther with mode := .postInc (.an 0), w := 2 }

/-- 41_addressing.md R158: a handler's own write of A0 wins over the pending increment, before or after the resolve,
and keeps the bytes from before it; without one the increment stands. -/
theorem test_other_commit_order :
    let s := { code [0x40, 0x00] with a := base.a.set 0 0x1FFFE }
    sees (step (withHandler rowOtherPostInc [.resolve] s)) (fun t => t.a[0] == 0x20000) = true ∧
      sees (step (withHandler rowOtherPostInc [.resolve, .const 0x55, .writeReg (.a 0) 2 0] s))
        (fun t => t.a[0] == 0x10055) = true ∧
      sees (step (withHandler rowOtherPostInc [.const 0x55, .writeReg (.a 0) 2 0, .resolve] s))
        (fun t => t.a[0] == 0x10055) = true := by decide

/-- 42_engine.md R173 and 41_addressing.md R140: a handler sees the pc of the next instruction and the address that
resolve answers, enough for a pc-relative branch and an LEA. -/
theorem test_other_pc_and_ea :
    let s := { code [0x40, 0x10] with a := base.a.set 0 0x2000 }
    sees (step (withHandler rowOther [.pc, .writeReg (.d 0) 4 0, .resolve, .ea, .writeReg (.a 1) 4 1] s))
        (fun t => t.d[0] == 0x1002 && t.a[1] == 0x2000) = true ∧
      sees (step (withHandler { rowOther with mode := .none } [.resolve, .ea] s)) (fun t => !t.stepResult) = true := by
  decide

/-- 30_encoding.md R100: a machine whose ROM fails a check has no move, whatever byte it would fetch. -/
theorem test_rom_refused :
    refusedWith (step { code [0x1C] with cfg := { base.cfg with rom := [rowStop] } }) (.configRefused (.rom .wf4Brk 0)) =
        true ∧
      refusedWith (step { code [0x1C] with cfg := { base.cfg with rom := testRom ++ [rowStop] } })
        (.configRefused (.rom .wf7Index 0x01)) = true ∧
      refusedWith (step (commanded .pause { base with cfg := { base.cfg with irqLevel := 0 } }))
        (.configRefused .irqLevelRange) = true := by decide

/-! ### Interrupts, skipped steps, errors -/

/-- V-INT-1, step 1: NMI before IRQ, one pin cleared. -/
theorem test_nmi_first :
    let s := put 0x00FFFFEC [0x00, 0x00, 0x11, 0x00] (code [0x1C])
    sees (step { s with pins := { s.pins with irq := true, nmi := true } }) (fun t =>
      t.sr.pack == 0x2700 && t.ssp == 0xFFFC && t.peek 0xFFFC 4 == 0x1000 && t.pc == 0x1100 && !t.pins.nmi &&
        t.pins.irq && t.cycles == 8 && t.stepResult) = true := by decide

/-- V-INT-2. -/
theorem test_irq_wakes :
    let s := put 0x00FFFFF4 [0x00, 0x00, 0x11, 0x00] base
    sees (step { s with pc := 0x100D, cpuState := .waiting, pins := { s.pins with irq := true } }) (fun t =>
      t.cpuState == .ready && t.peek 0xFFFC 4 == 0x100D && t.sr.pack == 0x2100 && t.pc == 0x1100 && !t.pins.irq) =
      true := by decide

/-- V-INT-3. -/
theorem test_reset_pin :
    let s := { base with pins := { base.pins with reset := true, irq := true }, d := base.d.set 0 5, cycles := 100 }
    sees (step s) (fun t =>
      t.d[0] == 0 && t.pc == 0x1000 && t.sr.pack == 0 && !t.pins.reset && t.pins.irq && t.cycles == 0 &&
        t.mem == base.mem) = true := by decide

/-- V-INT-4 and V-INT-5. -/
theorem test_abort_and_mask :
    let s := put 0x00FFFFE8 [0x00, 0x00, 0x13, 0x00] (code [0x1C])
    sees (step { s with pins := { s.pins with abort := true, nmi := true } }) (fun t =>
        t.sr.pack == 0x2000 && t.pc == 0x1300 && !t.pins.abort && t.pins.nmi) = true ∧
      sees (step { s with sr := SR.unpack 0x0100, pins := { s.pins with irq := true } })
        (fun t => t.pc == 0x1001 && t.pins.irq) = true := by decide

/-- V-ENG-2, V-ENG-3, V-ENG-4. -/
theorem test_skipped_steps :
    sees (step { base with pins := { base.pins with ready := false, nmi := true } })
        (fun t => t.cycles == 1 && t.pins.nmi && !t.stepResult && t.pc == 0x1000) = true ∧
      sees (step { base with cpuState := .waiting, sr := SR.unpack 0x0100, pins := { base.pins with irq := true } })
        (fun t => t.cycles == 1 && t.pins.irq && t.cpuState == .waiting) = true ∧
      sees (step { base with cpuState := .halted, pins := { base.pins with nmi := true, reset := true } })
        (fun t => t.cycles == 0 && t.pins.reset && !t.stepResult) = true := by decide

/-- V-ERR-2. -/
theorem test_count_three :
    let s := code [0x22]
    sees (step { s with d := s.d.set 0 0x1234 }) (fun t =>
      t.lastError ==
          some { code := .invalidOperandWidth, instrAddr := some 0x1000, faultAddr := none, opcode := some 0x22 } &&
        t.usp == 0x10000 && t.mem == s.mem && t.pc == 0x1000 && t.cpuState == .halted && t.pauseFlag) = true := by
  decide

/-- V-ERR-3. -/
theorem test_pc_out_of_range :
    let s := { base with
      pc := 0x01000000, lastDecoded := some { address := 0x00FFFFFB, opcode := 0x05, mnemonic := "JMPL $a32.L" } }
    sees (step s) (fun t =>
      t.lastError ==
          some { code := .outOfRangeProgramCounter, instrAddr := some 0x00FFFFFB, faultAddr := some 0x01000000
                 opcode := none } &&
        t.pauseFlag && t.cpuState == .ready && t.pc == 0x01000000) = true := by decide

/-- V-ERR-4. -/
theorem test_signature_out_of_range :
    let s := put 0x00FFFFFF [0x16] base
    sees (step { s with pc := 0x00FFFFFF, a := s.a.set 0 0x2000, d := s.d.set 0 0x1111 }) (fun t =>
      t.lastError ==
          some { code := .outOfRangeProgramCounter, instrAddr := some 0x00FFFFFF, faultAddr := some 0x01000000
                 opcode := some 0x16 } &&
        t.a[0] == 0x2000 && t.d[0] == 0x1111 && t.pc == 0x00FFFFFF) = true := by decide

/-! ### Debugger and host -/

/-- V-DBG-1, the step that hits: LOAD from 0x1001, breakpoint at 0x1002. -/
theorem test_breakpoint_hit :
    let s := code [0x1C, 0x1C, 0x1C]
    sees (step { s with pc := 0x1001, pauseFlag := false, breakpoints := [(0x1002, "b")] }) (fun t =>
      t.pc == 0x1002 && t.pauseFlag && t.lastHit == some (.breakpoint, 0x1002)) = true := by decide

/-- V-DBG-4, the step that hits: BRK at the next pc pauses before it executes. -/
theorem test_brk_opcode_hit :
    sees (step { code [0x1C, 0x00] with pauseFlag := false }) (fun t =>
      t.pc == 0x1001 && t.pauseFlag && t.lastHit == some (.brkOpcode, 0x1001)) = true := by decide

/-- V-DBG-6. -/
theorem test_interrupt_watch_hit :
    let s := code [0x1C, 0x1C]
    sees (step { s with
      pauseFlag := false, sr := SR.unpack 0x0100, pins := { s.pins with irq := true }, watchInterrupts := true
      watchedCats := { irq := true, nmi := false, abort := false, reset := false } }) (fun t =>
      t.lastHit == some (.interrupt, 0x1001)) = true := by decide

/-- P2, StepOver at CALL: the ephemeral breakpoint and free-run. -/
theorem test_step_over :
    sees (step (commanded .stepOver (code [0x07, 0x00, 0x00, 0x10, 0x20]))) (fun t =>
      t.ephemeral == some 0x1005 && !t.pauseFlag && t.pc == 0x1000) = true := by decide

/-- V-DBG-3: StepOver at a LOAD is a Step. -/
theorem test_step_over_not_eligible :
    sees (step (commanded .stepOver (code [0x1C]))) (fun t =>
      t.pc == 0x1001 && t.ephemeral == none && t.pauseFlag) = true := by decide

/-- V-DBG-10. -/
theorem test_breakpoint_label :
    (({ base with pauseFlag := true }.addBreakpoint 0x800 "a").addBreakpoint 0x00000800 "b").breakpoints =
      [(0x800, "b")] := by decide

/-- V-DBG-7: Revalidate marks a line whose byte changed. -/
theorem test_revalidate :
    let s := (code [0x10, 0x80, 0x00, 0x00, 0x01]).cacheLine 0x1000
    (s.lineCache.map DebugLine.bytes = [[0x10, 0x80, 0x00, 0x00, 0x01]]) ∧
      ((s.hostWriteByte 0x1001 0x7F).revalidate.lineCache.map DebugLine.stale = [true]) ∧
      (((s.hostWriteByte 0x1001 0x7F).hostWriteByte 0x1001 0x80).revalidate.lineCache.map DebugLine.stale =
        [false]) := by
  decide

/-- V-DBG-8 and V-ENG-8. -/
theorem test_decode_edges :
    base.decodeAt 0x01000000 = none ∧
      (match (put 0x00FFFFFE [0x10, 0x00] base).decodeAt 0x00FFFFFE with
        | some r => r.length == 5 && r.truncated && r.bytes == [0x10, 0x00]
        | none => false) = true := by decide

/-- V-DBG-11, V-RST-3, V-ENG-10. -/
theorem test_run_reset_cycles :
    sees (step (commanded .run { base with cpuState := .halted })) (fun t => t.pauseFlag) = true ∧
      sees (step (commanded .reset (put 0x00FFFFF0 [0xFF, 0x00, 0x10, 0x00]
        { base with cfg := { configP0 with pcBits := .b24 } }))) (fun t => t.pc == 0x001000) = true ∧
      sees (step (commanded .resetCycles { base with cycles := 8 })) (fun t => t.cycles == 0) = true := by decide

/-- U9 of 93_implementation_defined.md, and 42_engine.md R188: no host access in free-run; ExecuteCycles while
paused returns at once (R184). -/
theorem test_host_discipline :
    refusedWith (step (commanded .snapshot { base with pauseFlag := false })) .hostAccessWhileRunning = true ∧
      sees (step (commanded (.executeCycles 8) base)) (fun t => t == { base with bus := [], reply := none }) = true := by
  decide

/-- 44_debugger.md R265, 92 D37: a free-run that an error or a Halt pauses leaves a refreshed line cache. -/
theorem test_refresh_at_every_pause :
    let s := { code [0x22] with pauseFlag := false }
    sees (step s) (fun t => t.pauseFlag && t.lineCache.map DebugLine.address == [0x1000]) = true ∧
      sees (step (commanded .halt s)) (fun t =>
        t.cpuState == .halted && t.pauseFlag && t.lineCache.map DebugLine.address == [0x1000]) = true := by decide

/-- 10_state.md R56: before the first Reset a step is refused; and what is no step acts there (70_reset_and_hazards.md
R324): the loader's write, an AddBreakpoint, and the Reset itself. -/
theorem test_before_the_first_reset :
    let s := { base with resetDone := false }
    refusedWith (step s) .beforeFirstReset = true ∧
      refusedWith (step (commanded .step s)) .beforeFirstReset = true ∧
      sees (step (commanded (.writeByte 0x2000 7) s)) (fun t => t.readByte 0x2000 == 7 && !t.resetDone) = true ∧
      sees (step (commanded (.addBreakpoint 0x800 "a") s)) (fun t => t.breakpoints == [(0x800, "a")]) = true ∧
      sees (step (commanded .reset s)) (fun t => t.resetDone && t.pc == 0x1000) = true := by decide

/-- 10_state.md R36, R37: a device raises NMI, or lowers READY. -/
theorem test_device_moves :
    sees (step { base with schedule := [.device .nmi true] }) (fun t =>
      t.pins == { base.pins with nmi := true } && t.pc == base.pc) = true ∧
      sees (step { base with schedule := [.device .ready false] }) (fun t =>
        t.pins == { base.pins with ready := false }) = true := by decide

/-- Snapshot (42_engine.md R186): A7 is the active stack pointer. -/
theorem test_snapshot :
    sees (step (commanded .snapshot { base with ssp := 0x8000, usp := 0x9000, sr := SR.unpack 0x2000 })) (fun t =>
      match t.reply with
      | some (.snapshot r) => r.a7 == 0x8000 && r.ssp == 0x8000 && r.usp == 0x9000 && r.sr == 0x2000 && r.pc == 0x1000
      | _ => false) = true := by decide

/-- 42_engine.md R188: the debugger's commands answer the status, GetLine the line. -/
theorem test_status_replies :
    sees (step (commanded .step (code [0x1C]))) (fun t => t.reply == some (.status true)) = true ∧
      sees (step (commanded .step (code [0x22]))) (fun t => t.reply == some (.status false)) = true ∧
      sees (step (commanded (.getLine 0x1000) (code [0x1C]))) (fun t =>
        match t.reply with
        | some (.line (some l)) => l.address == 0x1000 && l.bytes == [0x1C]
        | _ => false) = true := by decide

/-- V-RST-2. -/
theorem test_reset_leaves_halted :
    let s := { base with cpuState := .halted, breakpoints := [(0x800, "a")] }
    sees (step (commanded .reset s)) (fun t =>
      t.cpuState == .ready && t.lastError == none && t.breakpoints == [(0x800, "a")] && t.pauseFlag) = true := by decide

/-! ### Witnesses: for every statement with hypotheses, terms that meet them -/

/-- A LOAD row at opcode 0x41 with a given mode, register and width, and as many bytes as its field needs. -/
def loadRow (m : Mode) (r : Reg) (w : Nat) : Descriptor :=
  { opcode := 0x41, mnemonic := "LOAD", baseLength := m.fieldBytes w + 1, mode := m, actionReg := some r
    lenAdj := false, w := w, count := 0, kind := .load, stepOver := false, cycles := 3 }

/-- The same as a STORE row. -/
def storeRow (m : Mode) (r : Reg) (w : Nat) : Descriptor := { loadRow m r w with kind := .store }

/-- A stack row at opcode 0x41. -/
def stackRow (k : Kind) (r : Reg) (n : Nat) : Descriptor :=
  { loadRow .none r 4 with kind := k, count := n }

/-- A control row at opcode 0x41. -/
def controlRow (k : Kind) (m : Mode) : Descriptor :=
  { loadRow m (.d 0) 4 with kind := k, actionReg := none }

/-- A next state exists with a property. -/
theorem next_of_sees {o : Host.Outcome State Fault Refusal} {f : State → Bool} (h : sees o f = true) :
    ∃ t, o = .next t ∧ f t = true := by
  cases o with
  | next t => exact ⟨t, rfl, h⟩
  | fault r => cases h
  | refused r => cases h

theorem witness_decodeOfEncode :
    (Instr.loadLImmD0 0xFFFFFFFF).wf = true ∧ (Instr.loadLImmD0 0xFFFFFFFF).boundBy testRom = true ∧
      (Instr.unimpl 0x09).wf = true ∧ (Instr.unimpl 0x09).boundBy testRom = true ∧
      (Instr.other rowOther 0xFF).wf = true ∧ (Instr.other rowOther 0xFF).boundBy (testRom ++ [rowOther]) = true ∧
      (Instr.configured rowIndexedAn 0xFF).wf = true ∧
      (Instr.configured rowIndexedAn 0xFF).boundBy (testRom ++ [rowIndexedAn]) = true := by decide

theorem witness_encodeOfDecode :
    decode testRom [0x10, 0xFF, 0xFF, 0xFF, 0xFF, 0x01] = .ok (.loadLImmD0 0xFFFFFFFF, [0x01]) ∧
      decode (testRom ++ [rowIndexedAn]) [0x40, 0xFF] = .ok (.configured rowIndexedAn 0xFF, []) := by decide

theorem witness_decodedIsWellFormedAndBound :
    decode testRom [0xFF] = .ok (.unimpl 0xFF, []) ∧
      decode (testRom ++ [rowOther]) [0x40, 0xFF] = .ok (.other rowOther 0xFF, []) := by decide

theorem witness_lengthAndField :
    rowLoadLImmD0.length ≤ 5 ∧ [0x80, 0x00, 0x00, (0x01 : Byte)].length = rowLoadLImmD0.length - 1 ∧
      rowLoadLImmD0.mode.fieldBytes rowLoadLImmD0.w ≤ rowLoadLImmD0.length - 1 ∧ rowLoadWImmSr.length = 3 ∧
      rowLoadLD0D6.length ≤ 5 ∧ ([] : List Byte).length = rowLoadLD0D6.length - 1 := by decide

theorem witness_wellFormedRomIsNeverRefused :
    Config.failure vecReset State.reset.cfg = none ∧ Rom.wf State.reset.cfg.rom = true ∧
      (let c := { configP0 with rom := [rowStop] };
        Config.failure vecReset c = some (.rom .wf4Brk 0) ∧ Rom.failure c.rom = some (.wf4Brk, 0) ∧ 1 ≤ c.memLimit ∧
          c.memLimit ≤ 2 ^ c.pcBits.bits ∧ c.irqLevel ≠ 0 ∧
          allCellsApart [vecReset, c.vecBrk, c.vecCop, c.vecAbort, c.vecNmi, c.vecIrq] = true) := by decide

theorem witness_flagPrimitives :
    (∀ n ∈ [1, 2, 4], n = 1 ∨ n = 2 ∨ n = 4) ∧ ∀ n ∈ [0, 3, 5], ¬(n = 1 ∨ n = 2 ∨ n = 4) := by decide

theorem witness_sizedRegisterPorts :
    (Reg.sr.width < 8 * 4 ∧ ¬((3 : Nat) = 1 ∨ (3 : Nat) = 2 ∨ (3 : Nat) = 4)) ∧
      (8 * 2 ≤ Reg.sr.width ∧ 8 * 4 ≤ (Reg.d 7).width) ∧ Reg.a7 ≠ Reg.sr ∧
      base.physical .ssp ≠ base.physical .a7 ∧ base.physical .usp = base.physical .a7 := by decide

theorem witness_writeThenRead : base.MemCanonical ∧ (0x1004 : Long) ∉ [0x1000, 0x1001, 0x1002, 0x1003] := by decide

theorem witness_addressingModes :
    rowStop.mode = .none ∧ rowLoadLD0D6.mode = .regDirect (.d 0) ∧ rowLoadBIndirectA0D5.mode = .indirect (.an 0) ∧
      rowLoadWPostIncA0D0.mode = .postInc (.an 0) ∧ rowStoreLD0PreDecA1.mode = .preDec (.an 1) ∧
      rowLoadWDisp8A0D7.mode = .disp8 (.an 0) ∧ rowStoreWD0Disp16A0.mode = .disp16 (.an 0) ∧
      rowLoadLIndexedA0D1D3.mode = .indexed (.an 0) (.d 1) .w ∧ rowLoadWPcDisp16D4.mode = .pcDisp16 ∧
      rowLoadLPcIndexedD1D2.mode = .pcIndexed (.d 1) .l ∧ rowStoreBD0AbsShort.mode = .absShort ∧
      rowLoadLAbsLongD2.mode = .absLong ∧ rowLoadLImmD0.mode = .immediate := by decide

theorem witness_sameRegisterCases :
    ([1, 2, 4].all fun w =>
      let r := loadRow (.postInc (.an 0)) (.a 0) w
      let p := loadRow (.preDec (.an 0)) (.a 0) w
      let q := storeRow (.preDec (.an 6)) (.a 6) w
      r.failure == none && r.actionReg == some (.a 0) && r.kind == .load && r.mode == .postInc (.an 0) &&
        p.failure == none && p.actionReg == some (.a 0) && p.kind == .load && p.mode == .preDec (.an 0) &&
        q.failure == none && q.actionReg == some (.a 6) && q.kind == .store && q.mode == .preDec (.an 6)) = true := by
  decide

theorem witness_errorsRestoreTheState :
    ∃ t, exec .pushD0Count3 base = .next t ∧ (!t.stepResult) = true :=
  next_of_sees (f := fun t => !t.stepResult) (by decide)

theorem witness_configuredLoad :
    (let d := loadRow (.regDirect .sr) .sr 2;
      d.failure = none ∧ d.kind = .load ∧ d.actionReg = some .sr ∧ 8 * d.w ≤ Reg.sr.width) ∧
      (let d := loadRow .absLong .a7 4;
        d.failure = none ∧ d.kind = .load ∧ d.mode = .absLong ∧ 8 * d.w ≤ Reg.a7.width) ∧
      (let d := loadRow .immediate .sr 4;
        d.failure = none ∧ d.kind = .load ∧ Reg.sr.width < 8 * d.w) ∧
      let d := loadRow (.regDirect .sr) (.d 0) 4
      d.failure = none ∧ d.kind = .load ∧ d.mode = .regDirect .sr ∧ Reg.sr.width < 8 * d.w := by decide

theorem witness_configuredStore :
    (let d := storeRow (.regDirect .sr) .sr 2;
      d.failure = none ∧ d.kind = .store ∧ d.actionReg = some .sr ∧ 8 * d.w ≤ Reg.sr.width) ∧
      (let d := storeRow .absShort .sr 4;
        d.failure = none ∧ d.kind = .store ∧ d.actionReg = some .sr ∧ Reg.sr.width < 8 * d.w) ∧
      let d := storeRow (.regDirect .sr) (.d 0) 4
      d.failure = none ∧ d.kind = .store ∧ d.mode = .regDirect .sr ∧ Reg.sr.width < 8 * d.w := by decide

theorem witness_configuredPushAndPull :
    (let d := stackRow .push .a7 4;
      d.failure = none ∧ d.actionReg = some .a7 ∧ d.count = 4 ∧ 8 * d.count ≤ Reg.a7.width ∧ d.kind = .push) ∧
      (let d := stackRow .pull .sr 2;
        d.failure = none ∧ d.actionReg = some .sr ∧ d.count = 2 ∧ 8 * d.count ≤ Reg.sr.width ∧ d.kind = .pull) ∧
      (let d := stackRow .push .sr 4;
        d.failure = none ∧ d.kind = .push ∧ ¬8 * d.count ≤ Reg.sr.width) ∧
      let d := stackRow .pull (.d 0) 3
      d.failure = none ∧ d.kind = .pull ∧ ¬(d.count = 1 ∨ d.count = 2 ∨ d.count = 4) := by decide

/-- A stack row without an action register. -/
def stackModeRow (k : Kind) (m : Mode) (n : Nat) : Descriptor :=
  { loadRow m (.d 0) 4 with kind := k, count := n, actionReg := none }

theorem witness_configuredPushAndPullByMode :
    (let d := stackModeRow .push (.postInc .a7) 4;
      d.failure = none ∧ d.actionReg = none ∧ d.count = 4 ∧ d.kind = .push ∧ d.mode = .postInc .a7) ∧
      (let d := stackModeRow .pull (.regDirect .sr) 2;
        d.failure = none ∧ d.actionReg = none ∧ d.count = 2 ∧ d.kind = .pull ∧ 8 * d.count ≤ Reg.sr.width) ∧
      (let d := stackModeRow .push .immediate 3;
        d.failure = none ∧ d.kind = .push ∧ ¬(d.count = 1 ∨ d.count = 2 ∨ d.count = 4)) ∧
      let d := stackModeRow .pull (.regDirect .sr) 4
      d.failure = none ∧ d.kind = .pull ∧ d.mode = .regDirect .sr ∧ Reg.sr.width < 8 * d.count := by decide

theorem witness_configuredControl :
    (∀ k ∈ [Kind.brk, .cop, .stop, .rti, .ret], (controlRow k .none).failure = none) ∧
      (controlRow .jmps .absShort).failure = none ∧
      ∀ k ∈ [Kind.jmpl, .jmpv, .call], (controlRow k .absLong).failure = none := by decide

theorem witness_otherHandlers :
    rowOther.failure = none ∧ (∀ p ∈ base.cfg.others, p.1 ≠ rowOther.opcode) ∧
      (let s := withHandler rowOther progOther base;
        (s.cfg.others.find? fun p => p.1 == rowOther.opcode) = some (0x40, progOther)) ∧
      (∀ o ∈ progOther, o.mayRaise rowOther = false) ∧ progOther.head? = some .resolve ∧
      (∀ o ∈ [OtherOp.sig, .setZ 0], o.mayRaise rowOther = false ∧ o.usesOperand = false) ∧
      rowOtherPostInc.failure = none ∧ rowOtherPostInc.mode = .postInc (.an 0) ∧
      (∀ prog ∈ [[OtherOp.resolve], [.const 0x55, .resolve, .writeReg (.a 0) 2 0],
          [.const 0x55, .writeReg (.a 0) 2 0, .resolve]],
        ((withHandler rowOtherPostInc prog base).cfg.others.find? fun p => p.1 == rowOtherPostInc.opcode) =
          some (0x40, prog)) ∧
      (let r := OtherRun.start base;
        (∀ c k, OtherOp.sig ≠ .skipUnless c k) ∧ r.op rowOther 7 .sig = .ok { r with vals := [7] } ∧
          r.op rowOther 7 (.readOp 1) = .error 1) :=
  ⟨by decide, by decide, by decide, by decide, by decide, by decide, by decide, by decide, by decide,
    fun _ _ h => (by cases h), by decide, by decide⟩

/-- The frames of memory, registers, flags, cycles and control state, and the configuration: instructions of every
clause that answer a next state. -/
theorem witness_frames :
    (∀ i ∈ [Instr.storeLD0PreDecA1, .storeWD0Disp16A0 0xFFFE, .storeBD0AbsShort 0x8000, .pushLD0, .call 0x1020,
        .pushWSr, .brk, .cop, .stop, .rti, .jmps 0x8000, .jmpl 0, .jmpv 0, .ret, .loadLD0D6, .pullLD5, .pullWSr,
        .unimpl 0xFF, .loadWImmSr 0xFFFF], sees (exec i base) (fun _ => true) = true) ∧
      Instr.stop.descriptor.kind = .stop ∧ (Instr.unimpl 0xFF).descriptor.kind = .unimpl ∧
      base.sr.s = false ∧ (SR.unpack 0x2000).s = true := by decide

/-- The same, of one instruction that commits and one that does not. -/
theorem witness_cycleAccounting :
    (∃ t, exec .loadLD0D6 base = .next t ∧ t.stepResult = true) ∧
      ∃ t, exec (.unimpl 0xFF) base = .next t ∧ (!t.stepResult) = true :=
  ⟨next_of_sees (f := State.stepResult) (by decide), next_of_sees (f := fun t => !t.stepResult) (by decide)⟩

theorem witness_stepRunsTheDecodedInstruction :
    let s := code [0x30, 0x27, 0x00]
    s.EngineTurn [] ∧ s.Fetches ∧ (∀ a ∈ s.pc :: sigAddrs s.pc 2, a.toNat < s.cfg.memLimit) ∧
      decode s.cfg.rom (s.readByte s.pc :: (sigAddrs s.pc 2).map s.readByte) = .ok (.loadWImmSr 0x2700, []) :=
  ⟨⟨.inl ⟨rfl, rfl⟩, rfl, by decide⟩, ⟨rfl, rfl, by decide⟩,
    fun a ha => of_decide_eq_true (List.all_eq_true.1 (show
      ((0x1000 :: sigAddrs 0x1000 2).all fun a => decide (a.toNat < configP0.memLimit)) = true by decide) a ha),
    by decide⟩

theorem witness_pinServiceConsumesTheStep :
    let s := { base with
      cpuState := .waiting, pauseFlag := false, pins := { base.pins with irq := true }, schedule := [.engine, .engine] }
    s.EngineTurn [.engine] ∧ s.cpuState ≠ .halted ∧ s.pins.ready = true ∧ s.select = some (.trap .irq) :=
  ⟨⟨.inr rfl, rfl, by decide⟩, by decide, rfl, by decide⟩

theorem witness_resetEffect :
    let s := { base with pins := { base.pins with reset := true, nmi := true } }
    s.EngineTurn [] ∧ s.cpuState ≠ .halted ∧ s.pins.ready = true ∧ s.pins.reset = true :=
  ⟨⟨.inl ⟨rfl, rfl⟩, rfl, by decide⟩, by decide, rfl, rfl⟩

theorem witness_skippedSteps :
    base.EngineTurn [] ∧
      (let s := { base with pins := { base.pins with ready := false } };
        s.cpuState ≠ .halted ∧ s.pins.ready = false) ∧
      (let s := { base with cpuState := .waiting, sr := SR.unpack 0x0100, pins := { base.pins with irq := true } };
        s.cpuState = .waiting ∧ s.pins.ready = true ∧ s.select = none) ∧
      { base with cpuState := .halted }.cpuState = .halted :=
  ⟨⟨.inl ⟨rfl, rfl⟩, rfl, by decide⟩, by decide, by decide, rfl⟩

theorem witness_stepsBeforeTheFirstResetAreRefused :
    let s := State.powerOn configP0 []
    (s.resetDone = false ∧ s.schedule = [] ∧ Config.failure vecReset s.cfg = none ∧ s.pauseFlag = true) ∧
      (∀ c ∈ [HostCommand.executeNext, .step, .reset, .writeByte 0 1],
        (commanded c s).schedule = .host c :: [] ∧ (commanded c s).pauseFlag = true) ∧
      { s with schedule := [.engine, .engine] }.schedule = .engine :: [.engine] ∧
      ({ s with pc := 0x01000000 }.decodeAt 0x01000000 = none) ∧ { s with cpuState := .halted }.cpuState = .halted := by
  decide

/-- The boundary of MEM_LIMIT: the opcode byte at it, and the first signature byte at it. -/
theorem witness_outOfRangePauses :
    (let s := { base with pc := 0x01000000 };
      s.EngineTurn [] ∧ s.Fetches ∧ s.cfg.memLimit ≤ s.pc.toNat) ∧
      let s := put 0x00FFFFFF [0x16] { base with pc := 0x00FFFFFF }
      let d := s.cfg.rom.row (s.readByte s.pc)
      s.pc.toNat < s.cfg.memLimit ∧ d.kind ≠ .unimpl ∧ 0 < d.length - 1 ∧
        s.pc + BitVec.ofNat 32 (0 + 1) = 0x01000000 ∧ s.cfg.memLimit ≤ (0x01000000 : Long).toNat :=
  ⟨⟨⟨.inl ⟨rfl, rfl⟩, rfl, by decide⟩, ⟨rfl, rfl, by decide⟩, by decide⟩, by decide⟩

theorem witness_onlyAServicedPinLeavesWaiting :
    let s := { base with cpuState := .waiting, pins := { base.pins with nmi := true } }
    (s.schedule = [] ∨ ∃ rest, s.schedule = .engine :: rest) ∧ s.cpuState = .waiting ∧
      ∃ t, step s = .next t ∧ (t.cpuState != .waiting) = true :=
  ⟨.inl rfl, rfl, next_of_sees (f := fun t => t.cpuState != .waiting) (by decide)⟩

theorem witness_onlyTheHostsResetLeavesHalted :
    let s := commanded .reset { base with cpuState := .halted }
    s.cpuState = .halted ∧ ∃ t, step s = .next t ∧ (t.cpuState != .halted) = true :=
  ⟨rfl, next_of_sees (f := fun t => t.cpuState != .halted) (by decide)⟩

/-- The invariants, in free-run with an ephemeral breakpoint, a breakpoint and a line. -/
theorem witness_invariants :
    let s := ({ base with breakpoints := [(0x800, "a"), (0x1002, "b")], ephemeral := some 0x1005, pauseFlag := false
                          }.cacheLine 0x1000).cacheLine 0x800
    (s.PcInRange ∧ s.MemCanonical ∧ s.VectorPullLow ∧ s.ephemeral = some 0x1005 ∧ s.pauseFlag = false ∧
      s.cpuState ≠ .halted ∧ s.BreakpointsOrdered ∧ s.LinesOrdered) ∧ ∃ t, step s = .next t ∧ true = true :=
  ⟨by decide, next_of_sees (f := fun _ => true) (by decide)⟩

theorem witness_configurationIsNeverWritten : ∃ t, step State.reset = .next t ∧ t.stepResult = true :=
  next_of_sees (f := State.stepResult) (by decide)

theorem witness_hitTestReasons :
    base.pauseFlag = true ∧ { base with ephemeral := some 0x1000 }.ephemeral = some base.pc ∧
      (∃ l, (base.pc, l) ∈ { base with breakpoints := [(0x1000, "b")] }.breakpoints) ∧
      (base.ephemeral ≠ some base.pc ∧ (∀ p ∈ base.breakpoints, p.1 ≠ base.pc) ∧
        base.pc.toNat < base.cfg.memLimit ∧ base.readByte base.pc = 0) ∧
      (code [0x1C]).readByte base.pc ≠ 0 ∧ { base with pc := 0x01000000 }.pc.toNat = base.cfg.memLimit ∧
      (let s := { code [0x1C] with pauseFlag := false };
        s.pauseFlag = false ∧ s.hitReason = none) ∧
      { base with pauseFlag := false }.hitReason = some .brkOpcode :=
  ⟨rfl, rfl, ⟨"b", by decide⟩, by decide, by decide, by decide, by decide, by decide⟩

theorem witness_breakpointMap : rising ([((0x800 : Long), "a"), (0x1002, "b")].map Prod.fst) = true := by decide

theorem witness_runPauseHalt :
    (base.pauseFlag = true ∧ base.cpuState ≠ .halted) ∧
      { base with cpuState := .halted }.cpuState = .halted ∧ { base with pauseFlag := false }.pauseFlag = false := by
  decide

theorem witness_stepOverInstallsTheEphemeralBreakpoint :
    (match (code [0x07]).decodeAt 0x1000 with
      | some r => !r.truncated && r.descriptor.stepOver
      | none => false) = true ∧ (code [0x07]).cpuState ≠ .halted ∧
      (match (code [0x1C]).decodeAt 0x1000 with
        | some r => !r.descriptor.stepOver
        | none => false) = true ∧ { base with pc := 0x01000000 }.decodeAt 0x01000000 = none ∧
      ∃ t, { code [0x1C] with pauseFlag := true, ephemeral := none }.refresh.executeNext = .next t ∧
        t.stepResult = true :=
  ⟨by decide, by decide, by decide, by decide, next_of_sees (f := State.stepResult) (by decide)⟩

theorem witness_lineCacheCommands :
    (∀ l ∈ (base.cacheLine 0x1000).lineCache, l.address = 0x1000) ∧
      base.cfg.memLimit ≤ (0x01000000 : Long).toNat ∧
      ((∀ l ∈ base.lineCache, l.address ≠ 0x00FFFFFF) ∧ (base.decodeAt 0x00FFFFFF).isSome = true) ∧
      (base.cacheLine 0x1000).revalidate.lineCache.length = 1 := by decide

theorem witness_hostCommandsNeedThePause :
    ([HostCommand.executeNext, .executeCycles 1, .reset, .resetCycles, .preFetch, .decode 0, .snapshot, .jumpShort 0, .jumpLong 0,
        .jumpVector 0, .writeByte 0 0, .getLine 0, .revalidate, .step, .stepOver, .run, .pause, .halt,
        .addBreakpoint 0 "a", .removeBreakpoint 0, .setInterruptWatch true ⟨true, true, true, true⟩,
        .invalidateLines 0 0xFFFFFFFF, .clearLines].all fun c =>
      let s := commanded c (code [0x1C])
      s.schedule == [.host c] && s.pauseFlag && sees (step s) (fun _ => true)) = true ∧
      Config.failure vecReset base.cfg = none ∧ { base with pauseFlag := false }.pauseFlag = false ∧
      (∀ p ∈ [DevicePin.irq, .nmi, .abort, .reset, .ready],
        { base with schedule := [.device p true, .engine] }.schedule = .device p true :: [.engine]) ∧
      (HostCommand.decode 0).needsPaused = true := by decide

theorem witness_decodeIsWithoutSideEffects :
    base.cfg.memLimit ≤ (0x01000000 : Long).toNat ∧ (0x00FFFFFF : Long).toNat < base.cfg.memLimit ∧
      (base.cfg.rom.row (base.readByte 0x00FFFFFF)).failure = none ∧ base.resetDone = true ∧ base.pauseFlag = true ∧
      Config.failure vecReset base.cfg = none ∧ (commanded .preFetch base).schedule = .host .preFetch :: [] := by decide

theorem witness_executeCyclesEnds :
    (8 : BitVec 64) ≤ { base with cycles := 8 }.cycles ∧ base.pauseFlag = true ∧
      let s := { base with cpuState := .waiting, pauseFlag := false }
      s.resetDone = true ∧ s.cycles < 8 ∧ s.pauseFlag = false ∧ s.cpuState ≠ .halted ∧ (8 : BitVec 64).toNat - s.cycles.toNat ≤ 8 ∧
        s.cpuState = .waiting ∧ s.select = none := by decide

end Sys2Proof.Tests
end

section
/-! SUPPORT. What every step keeps, said once: a property that the engine's operations (`EngineKept`), a device's pin
and the few writes of the debugger's and the host's commands keep is kept by every step. -/

namespace Sys2Proof.Machine

/-- A property that each single write of a step keeps: the engine's, a device's and the host's. -/
structure StepKept (P : State → Prop) : Prop extends EngineKept P where
  begins : ∀ {s : State} (rest : List Move), P s → P { s.beginMove with schedule := rest }
  drivePin : ∀ {s : State} (p : DevicePin) (level : Bool), P s → P (s.drivePin p level)
  replies : ∀ {s : State} (r : Option Reply), P s → P { s with reply := r }
  reset : ∀ {s : State}, P s → P s.performReset
  resetCycles : ∀ {s : State}, P s → P { s with cycles := 0 }
  hostWriteByte : ∀ {s : State} (a : Long) (v : Byte), P s → P (s.hostWriteByte a v)
  halt : ∀ {s : State}, P s → P s.halt
  pauses : ∀ {s : State} (hit : Option (HitReason × Long)), P s →
    P { s with pauseFlag := true, ephemeral := none, lastHit := hit }
  resumes : ∀ {s : State} (eph : Option Long), s.cpuState ≠ .halted → P s →
    P { s with ephemeral := eph, pauseFlag := false }
  cacheLine : ∀ {s : State} (a : Long), P s → P (s.cacheLine a)
  revalidate : ∀ {s : State}, P s → P s.revalidate
  putBreakpoint : ∀ {s : State} (a : Long) (label : String), P s →
    P { s with breakpoints := putBreakpoint a label s.breakpoints }
  dropBreakpoint : ∀ {s : State} (a : Long), P s → P { s with breakpoints := dropBreakpoint a s.breakpoints }
  watch : ∀ {s : State} (on : Bool) (cats : PinSet), P s → P { s with watchInterrupts := on, watchedCats := cats }
  keepLines : ∀ {s : State} (q : DebugLine → Bool), P s → P { s with lineCache := s.lineCache.filter q }

theorem andThen_keeps {P : State → Prop} {o : Host.Outcome State Fault Refusal} {f : State → State} {t : State}
    (e : andThen o f = .next t) (ho : ∀ u, o = .next u → P u) (hf : ∀ u, P u → P (f u)) : P t := by
  obtain ⟨u, hu, rfl⟩ := andThen_next e
  exact hf u (ho u hu)

namespace StepKept

variable {P : State → Prop} (K : StepKept P)
include K

theorem refresh {s : State} (h : P s) : P s.refresh := K.revalidate (K.cacheLine _ h)

theorem pause {s : State} (h : P s) : P s.pause := K.refresh (K.pauses s.lastHit h)

theorem run {s : State} (h : P s) : P s.run := by
  unfold State.run
  split
  · exact h
  · split
    · exact h
    · next hc => exact K.resumes s.ephemeral hc h

theorem hostHalt {s : State} (h : P s) : P s.hostHalt := by
  unfold State.hostHalt
  split
  · exact K.halt h
  · exact K.halt (K.pause h)

theorem replyStatus {s : State} (h : P s) : P s.replyStatus := K.replies _ h

theorem stepPaused {s t : State} (e : s.stepPaused = .next t) (h : P s) : P t :=
  andThen_keeps e (fun _ hu => K.executeNext hu h) fun _ => K.refresh

theorem debugStepOver {s t : State} (e : s.debugStepOver = .next t) (h : P s) : P t := by
  have hp : P s.pause := K.pause h
  have hpaused : s.pause.pauseFlag = true := by rw [pause_eq]
  simp only [State.debugStepOver] at e
  split at e
  · split at e
    · exact K.stepPaused e hp
    · next hc =>
      cases e
      simp only [State.run, hpaused, hc, if_false, Bool.true_eq_false]
      exact K.resumes _ hc hp
  · exact K.stepPaused e hp

theorem hitTest {s : State} (h : P s) : P s.hitTest := by
  unfold State.hitTest
  split
  · exact h
  · split
    · exact K.refresh (K.pauses _ h)
    · exact h

theorem afterStep {s : State} (h : P s) : P s.afterStep := by
  unfold State.afterStep
  split
  · exact K.hitTest h
  · split
    · exact K.refresh h
    · exact h

theorem workerMove {s t : State} (e : s.workerMove = .next t) (h : P s) : P t :=
  andThen_keeps e (fun _ hu => K.executeNext hu h) fun _ => K.afterStep

theorem executeCycles {n : BitVec 64} {fuel : Nat} {s t : State} (e : executeCycles n fuel s = .next t) (h : P s) :
    P t := by
  induction fuel generalizing s with
  | zero => cases e; exact h
  | succ fuel ih =>
    unfold Machine.executeCycles at e
    split at e
    · split at e
      · next hw => exact ih e (K.workerMove hw h)
      · cases e
      · cases e
    · cases e; exact h

/-- A host command that answers a next state. -/
theorem hostCommand {s t : State} {c : HostCommand} (e : s.hostCommand c = .next t) (h : P s) : P t := by
  have hp : P s.pause := K.pause h
  cases c <;> simp only [State.hostCommand] at e
  case executeNext => exact andThen_keeps e (fun _ hu => K.executeNext hu h) fun _ => K.replyStatus
  case step => exact andThen_keeps e (fun _ hu => K.stepPaused hu hp) fun _ => K.replyStatus
  case stepOver => exact andThen_keeps e (fun _ hu => K.debugStepOver hu h) fun _ => K.replyStatus
  case executeCycles n => exact K.executeCycles e h
  all_goals cases e
  case resetCycles => exact K.resetCycles h
  case preFetch => exact K.replies _ h
  case decode a => exact K.replies _ h
  case reset => exact K.reset h
  case halt => exact K.hostHalt h
  case jumpShort a => exact K.setPc _ h
  case jumpLong a => exact K.setPc _ h
  case jumpVector a => exact K.jumpVector _ h
  case snapshot => exact K.replies _ h
  case writeByte a v => exact K.hostWriteByte _ _ h
  case run => exact K.replyStatus (K.run h)
  case pause => exact K.replyStatus hp
  case addBreakpoint a l => exact K.replyStatus (K.putBreakpoint a l hp)
  case removeBreakpoint a => exact K.replyStatus (K.dropBreakpoint a hp)
  case setInterruptWatch on cats => exact K.replyStatus (K.watch on cats hp)
  case getLine a => exact K.replies _ (K.cacheLine a h)
  case revalidate => exact K.replyStatus (K.revalidate h)
  case invalidateLines lo hi => exact K.replyStatus (K.keepLines _ hp)
  case clearLines =>
    have hc := K.keepLines (fun _ => false) hp
    rw [List.filter_false] at hc
    exact K.replyStatus hc

/-- What every single write keeps, every step keeps (spec/44_debugger.md R266). -/
theorem step {s t : State} (e : step s = .next t) (h : P s) : P t := by
  obtain ⟨-, u, hu, hm⟩ := step_cases e
  have hPu : P u := by
    rcases hu with rfl | ⟨m, -, hu⟩
    · exact K.begins s.schedule h
    · rw [hu]; exact K.begins _ h
  rcases hm with ⟨-, e⟩ | ⟨-, e⟩ | ⟨p, level, -, rfl⟩ | ⟨c, -, e⟩
  · exact K.executeNext e hPu
  · exact K.workerMove e hPu
  · exact K.drivePin p level hPu
  · exact K.hostCommand e hPu

end StepKept

end Sys2Proof.Machine
end

section
/-! SUPPORT. The invariants of spec/10_state.md that no move breaks: the configuration (R51), the range of the pc (R25)
and the order of the debugger's maps (R46, R49). -/

namespace Sys2Proof.Machine

/-! ### The configuration -/

@[simp] theorem enter_cfg (s : State) (t : Trap) : (s.enter t).cfg = s.cfg := by simp [State.enter]

@[simp] theorem performReset_cfg (s : State) : s.performReset.cfg = s.cfg := by simp [State.performReset]

@[simp] theorem service_cfg (s : State) (v : Service) : (s.service v).cfg = s.cfg := by
  cases v <;> simp [State.service, State.takeInterrupt]

@[simp] theorem drivePin_cfg (s : State) (p : DevicePin) (level : Bool) : (s.drivePin p level).cfg = s.cfg := by
  cases p <;> rfl

@[simp] theorem cacheLine_cfg (s : State) (a : Long) : (s.cacheLine a).cfg = s.cfg := by
  rw [cacheLine_eq]

/-- Each write of a step leaves the configuration as it is. -/
theorem stepKept_cfg (c : Config) : StepKept fun s => s.cfg = c where
  didRead _ _ h := h
  memWrite _ _ _ h := h
  setReg _ _ h := (setReg_cfg ..).trans h
  setSr _ h := h
  setPc _ h := h
  jumpVector _ h := (jumpVector_cfg ..).trans h
  enter _ h := (enter_cfg ..).trans h
  wait h := h
  retire _ h := h
  raise _ _ _ h := h
  skip h := h
  halted h := h
  service v h := (service_cfg _ v).trans h
  note _ _ h := h
  outOfRange _ _ _ h := h
  begins _ h := h
  drivePin _ _ h := (drivePin_cfg ..).trans h
  replies _ h := h
  reset h := (performReset_cfg _).trans h
  resetCycles h := h
  hostWriteByte _ _ h := h
  halt h := h
  pauses _ h := h
  resumes _ _ h := h
  cacheLine _ h := (cacheLine_cfg ..).trans h
  revalidate h := h
  putBreakpoint _ _ h := h
  dropBreakpoint _ h := h
  watch _ _ h := h
  keepLines _ h := h

/-! ### The pc -/

/-- A value assigned to the pc is cut to PC_BITS (spec/10_state.md R25). -/
theorem truncPc_toNat_lt (c : Config) (t : Long) : (truncPc c t).toNat < 2 ^ c.pcBits.bits := by
  cases h : c.pcBits with
  | b24 =>
    simp only [truncPc, h, BitVec.toNat_and, PcBits.bits]
    exact lt_of_le_of_lt Nat.and_le_right (by decide)
  | b32 =>
    simp only [truncPc, h, PcBits.bits]
    exact t.isLt

theorem pcInRange_setPc (s : State) (t : Long) : (s.setPc t).PcInRange := truncPc_toNat_lt s.cfg t

theorem pcInRange_jumpVector (s : State) (a : Long) : (s.jumpVector a).PcInRange := pcInRange_setPc _ _

theorem pcInRange_enter (s : State) (t : Trap) : (s.enter t).PcInRange := pcInRange_jumpVector _ _

theorem pcInRange_service (s : State) (v : Service) : (s.service v).PcInRange := by
  cases v with
  | reset => exact pcInRange_jumpVector s vecReset
  | trap t => exact pcInRange_enter s t

/-- Whatever keeps the pc and the configuration keeps the pc in range. -/
theorem pcInRange_of_same {s t : State} (hpc : t.pc = s.pc) (hcfg : t.cfg = s.cfg) (h : s.PcInRange) : t.PcInRange := by
  simpa only [State.PcInRange, hpc, hcfg] using h

/-- Each write of a step keeps the pc or assigns it a cut value. -/
theorem stepKept_pcInRange : StepKept State.PcInRange where
  didRead _ _ h := h
  memWrite _ _ _ h := h
  setReg _ _ h := pcInRange_of_same (setReg_pc ..) (setReg_cfg ..) h
  setSr _ h := h
  setPc _ _ := pcInRange_setPc _ _
  jumpVector _ _ := pcInRange_jumpVector _ _
  enter _ _ := pcInRange_enter _ _
  wait h := h
  retire _ h := h
  raise _ _ _ h := h
  skip h := h
  halted h := h
  service v _ := pcInRange_service _ v
  note _ _ h := h
  outOfRange _ _ _ h := h
  begins _ h := h
  drivePin p _ h := by cases p <;> exact h
  replies _ h := h
  reset _ := pcInRange_jumpVector _ _
  resetCycles h := h
  hostWriteByte _ _ h := h
  halt h := h
  pauses _ h := h
  resumes _ _ h := h
  cacheLine a h := by rw [cacheLine_eq]; exact h
  revalidate h := h
  putBreakpoint _ _ h := h
  dropBreakpoint _ h := h
  watch _ _ h := h
  keepLines _ h := h

/-! ### The debugger's maps -/

/-- A list rises when each address is below every later one. -/
theorem rising_iff_pairwise (l : List Long) : rising l = true ↔ l.Pairwise fun a b => a.toNat < b.toNat := by
  induction l with
  | nil => simp [rising]
  | cons a l ih =>
    cases l with
    | nil => simp [rising]
    | cons b l =>
      simp only [rising, Bool.and_eq_true, decide_eq_true_eq, ih, List.pairwise_cons, List.mem_cons,
        forall_eq_or_imp]
      constructor
      · rintro ⟨hab, hb, hl⟩
        exact ⟨⟨hab, fun x hx => lt_trans hab (hb x hx)⟩, hb, hl⟩
      · rintro ⟨⟨hab, -⟩, hb, hl⟩
        exact ⟨hab, hb, hl⟩

/-- Entries dropped from a rising map leave it rising. -/
theorem rising_map_filter {α : Type} (key : α → Long) (q : α → Bool) {l : List α} (h : rising (l.map key) = true) :
    rising ((l.filter q).map key) = true := by
  rw [rising_iff_pairwise] at h ⊢
  exact h.sublist (List.filter_sublist.map key)

/-- A key put in its place in a rising list, or in the place of the same key. -/
def insertKey (a : Long) : List Long → List Long
  | [] => [a]
  | k :: ks => if a.toNat < k.toNat then a :: k :: ks else if a = k then a :: ks else k :: insertKey a ks

/-- AddBreakpoint puts its address among the map's keys (spec/44_debugger.md R256). -/
theorem putBreakpoint_keys (a : Long) (label : String) (bs : List (Long × String)) :
    (putBreakpoint a label bs).map Prod.fst = insertKey a (bs.map Prod.fst) := by
  induction bs with
  | nil => rfl
  | cons b bs ih =>
    simp only [putBreakpoint, List.map_cons, insertKey]
    split_ifs <;> simp [ih]

/-- A line inserted puts its address among the cache's (spec/44_debugger.md R263). -/
theorem insertLine_addresses (l : DebugLine) (ls : List DebugLine) :
    (insertLine l ls).map DebugLine.address = insertKey l.address (ls.map DebugLine.address) := by
  induction ls with
  | nil => rfl
  | cons k ks ih =>
    simp only [insertLine, List.map_cons, insertKey]
    split_ifs <;> simp [ih]

theorem mem_insertKey {a x : Long} {ks : List Long} (h : x ∈ insertKey a ks) : x = a ∨ x ∈ ks := by
  induction ks with
  | nil => simpa [insertKey] using h
  | cons k ks ih =>
    unfold insertKey at h
    split_ifs at h
    · simpa using h
    · exact (List.mem_cons.1 h).imp_right (List.mem_cons_of_mem k)
    · rcases List.mem_cons.1 h with rfl | h
      · exact .inr List.mem_cons_self
      · exact (ih h).imp_right (List.mem_cons_of_mem k)

theorem rising_insertKey (a : Long) {ks : List Long} (h : rising ks = true) : rising (insertKey a ks) = true := by
  rw [rising_iff_pairwise] at h ⊢
  induction ks with
  | nil => simp [insertKey]
  | cons k ks ih =>
    obtain ⟨hk, hks⟩ := List.pairwise_cons.1 h
    unfold insertKey
    split_ifs with hlt heq
    · refine List.pairwise_cons.2 ⟨fun x hx => ?_, h⟩
      rcases List.mem_cons.1 hx with rfl | hx
      · exact hlt
      · exact lt_trans hlt (hk x hx)
    · exact heq ▸ h
    · refine List.pairwise_cons.2 ⟨fun x hx => ?_, ih hks⟩
      rcases mem_insertKey hx with rfl | hx
      · have hne : k.toNat ≠ x.toNat := fun hkx => heq (BitVec.eq_of_toNat_eq hkx.symm)
        omega
      · exact hk x hx

/-- GetLine keeps the line cache in order (spec/44_debugger.md R263). -/
theorem linesOrdered_cacheLine {s : State} (a : Long) (h : s.LinesOrdered) : (s.cacheLine a).LinesOrdered := by
  unfold State.cacheLine
  split
  · exact h
  · split
    · simpa only [State.LinesOrdered, insertLine_addresses] using rising_insertKey _ h
    · exact h

/-- Revalidate changes no address. -/
theorem revalidate_addresses (s : State) :
    s.revalidate.lineCache.map DebugLine.address = s.lineCache.map DebugLine.address := by
  simp [State.revalidate]

@[simp] theorem enter_breakpoints (s : State) (t : Trap) : (s.enter t).breakpoints = s.breakpoints := by
  simp [State.enter]

@[simp] theorem enter_lineCache (s : State) (t : Trap) : (s.enter t).lineCache = s.lineCache := by simp [State.enter]

@[simp] theorem performReset_breakpoints (s : State) : s.performReset.breakpoints = s.breakpoints := by
  simp [State.performReset]

@[simp] theorem performReset_lineCache (s : State) : s.performReset.lineCache = s.lineCache := by
  simp [State.performReset]

@[simp] theorem service_breakpoints (s : State) (v : Service) : (s.service v).breakpoints = s.breakpoints := by
  cases v <;> simp [State.service, State.takeInterrupt]

@[simp] theorem service_lineCache (s : State) (v : Service) : (s.service v).lineCache = s.lineCache := by
  cases v <;> simp [State.service, State.takeInterrupt]

/-- Whatever keeps both maps keeps them in order. -/
theorem mapsOrdered_of_same {s t : State} (hb : t.breakpoints = s.breakpoints) (hl : t.lineCache = s.lineCache)
    (h : s.BreakpointsOrdered ∧ s.LinesOrdered) : t.BreakpointsOrdered ∧ t.LinesOrdered := by
  simpa only [State.BreakpointsOrdered, State.LinesOrdered, hb, hl] using h

/-- Each write of a step keeps both maps in address order. -/
theorem stepKept_mapsOrdered : StepKept fun s => s.BreakpointsOrdered ∧ s.LinesOrdered where
  didRead _ _ h := h
  memWrite _ _ _ h := h
  setReg _ _ h := mapsOrdered_of_same (setReg_breakpoints ..) (setReg_lineCache ..) h
  setSr _ h := h
  setPc _ h := h
  jumpVector _ h := mapsOrdered_of_same (jumpVector_breakpoints ..) (jumpVector_lineCache ..) h
  enter _ h := mapsOrdered_of_same (enter_breakpoints ..) (enter_lineCache ..) h
  wait h := h
  retire _ h := h
  raise _ _ _ h := h
  skip h := h
  halted h := h
  service v h := mapsOrdered_of_same (service_breakpoints _ v) (service_lineCache _ v) h
  note _ _ h := h
  outOfRange _ _ _ h := h
  begins _ h := h
  drivePin p _ h := by cases p <;> exact h
  replies _ h := h
  reset h := mapsOrdered_of_same (performReset_breakpoints _) (performReset_lineCache _) h
  resetCycles h := h
  hostWriteByte _ _ h := h
  halt h := h
  pauses _ h := h
  resumes _ _ h := h
  cacheLine a h := ⟨by rw [cacheLine_eq]; exact h.1, linesOrdered_cacheLine a h.2⟩
  revalidate {s} h := ⟨h.1, by rw [State.LinesOrdered, revalidate_addresses]; exact h.2⟩
  putBreakpoint a label h :=
    ⟨by rw [State.BreakpointsOrdered, putBreakpoint_keys]; exact rising_insertKey a h.1, h.2⟩
  dropBreakpoint a h := ⟨rising_map_filter Prod.fst _ h.1, h.2⟩
  watch _ _ h := h
  keepLines q h := ⟨h.1, rising_map_filter DebugLine.address q h.2⟩

/-! ### The obligations -/

/-- Settles O37: each write of a step leaves the configuration as it is. -/
theorem configurationIsNeverWritten : Obligations.ConfigurationIsNeverWritten := by
  unfold Obligations.ConfigurationIsNeverWritten
  intro s t e
  exact (stepKept_cfg s.cfg).step e rfl

/-- Settles O48: the pc is kept, or assigned a value cut to PC_BITS. -/
theorem pcStaysInRange : Obligations.PcStaysInRange := by
  unfold Obligations.PcStaysInRange
  intro s t h e
  exact stepKept_pcInRange.step e h

/-- Settles O51: entries are put in their place, dropped, or kept with their addresses. -/
theorem debuggerMapsStayOrdered : Obligations.DebuggerMapsStayOrdered := by
  unfold Obligations.DebuggerMapsStayOrdered
  intro s t hb hl e
  exact stepKept_mapsOrdered.step e ⟨hb, hl⟩

end Sys2Proof.Machine
end

section
/-! SUPPORT. What a handler that is done has done, said once for each shared operation and handler, and what every
instruction leaves alone when it commits. -/

namespace Sys2Proof.Machine

/-! ### Operand access and handlers, by what they leave -/

/-- A read of an operand leaves the state, but for one bus read at most. -/
theorem readOp_state {s t : State} {op : Operand} {w : Nat} {v : Long} (e : s.readOp op w = .ok (v, t)) :
    t = s ∨ ∃ ea, t = s.didRead ea w := by
  rcases readOp_cases s op w with ⟨r, -, -, h⟩ | ⟨ea, -, -, h⟩ | ⟨x, -, h⟩ | h <;> rw [h] at e <;> cases e
  · exact .inl rfl
  · exact .inr ⟨ea, rfl⟩
  · exact .inl rfl

/-- A write of an operand is one register write or one bus write. -/
theorem writeOp_state {s t : State} {op : Operand} {w : Nat} {v : Long} (e : s.writeOp op w v = .ok t) :
    (∃ r x, op = .reg r ∧ t = s.setReg r x) ∨ ∃ ea, op = .mem ea ∧ t = s.memWrite ea w v := by
  rcases writeOp_cases s op w v with ⟨r, hr, -, h⟩ | ⟨ea, hea, -, h⟩ | h <;> rw [h] at e <;> cases e
  · exact .inl ⟨r, _, hr, rfl⟩
  · exact .inr ⟨ea, hea, rfl⟩

/-- A STORE's write is that of its operand, or, to SR, none at all (log 21). -/
theorem storeOp_state {s t : State} {op : Operand} {w : Nat} {v : Long} (e : s.storeOp op w v = .ok t) :
    (op = .reg .sr ∧ t = s) ∨ s.writeOp op w v = .ok t := by
  by_cases h : op = .reg .sr
  · subst h
    rcases storeOp_sr s w v with ⟨-, hs⟩ | ⟨hw, hs⟩ <;> rw [hs] at e <;> cases e
    split
    · exact .inl ⟨rfl, rfl⟩
    · exact .inr (by simp [State.writeOp, State.xw, hw])
  · exact .inr (storeOp_eq h s w v ▸ e)

theorem pushSource_state {d : Descriptor} {sig v : Long} {s t : State} (e : pushSource d sig s = .ok (v, t)) :
    t = s ∨ ∃ ea, t = s.didRead ea d.count := by
  unfold pushSource at e
  split at e
  · split at e <;> cases e
    exact .inl rfl
  · exact readOp_state e

/-- PUSH, done: the pending update, one bus write, the new A7. -/
theorem handlePush_done {d : Descriptor} {sig : Long} {s u : State} (e : handlePush d sig s = .done u) :
    ∃ t v, pushSource d sig s = .ok (v, t) ∧
      let sp := s.reg .a7 - BitVec.ofNat 32 d.count
      u = ((t.applyPending (stackPending d s)).memWrite sp d.count v).setReg .a7 sp := by
  unfold handlePush at e
  split at e
  · cases e
  · split at e
    · cases e
    · next v t hp => cases e; exact ⟨t, v, hp, rfl⟩

/-- PULL into an action register, done: one bus read, the new A7, the register. -/
theorem handlePull_done_reg {d : Descriptor} {sig : Long} {s u : State} {r : Reg} (hr : d.actionReg = some r)
    (e : handlePull d sig s = .done u) :
    ∃ x, u = ((s.didRead (s.reg .a7) d.count).setReg .a7 (s.reg .a7 + BitVec.ofNat 32 d.count)).setReg r x := by
  simp only [handlePull, hr] at e
  split at e
  · cases e
  · split at e
    · cases e
    · next hb =>
      simp only [State.xw, hb] at e
      cases e
      exact ⟨_, rfl⟩

/-- PULL into the mode's operand, done: one bus read, the pending update, the new A7, the operand's write. -/
theorem handlePull_done_mode {d : Descriptor} {sig : Long} {s u : State} (hr : d.actionReg = none)
    (e : handlePull d sig s = .done u) :
    ∃ op p v,
      (((s.didRead (s.reg .a7) d.count).applyPending p).setReg .a7
        (s.reg .a7 + BitVec.ofNat 32 d.count)).writeOp op d.count v = .ok u := by
  simp only [handlePull, hr] at e
  split at e
  · cases e
  · split at e
    · next hw => cases e; exact ⟨_, _, _, hw⟩
    · cases e

/-- LOAD, done: the operand read, the pending update, the action register, N and Z unless it is SR. -/
theorem handleLoad_done {d : Descriptor} {sig : Long} {s u : State} (e : handleLoad d sig s = .done u) :
    ∃ r v m x, d.actionReg = some r ∧ s.readOp (s.operand d sig) d.w = .ok (v, m) ∧
      x = (m.applyPending (s.pending d)).setReg r (patchLow d.w (m.reg r) v) ∧
      u = if r = .sr then x else { x with sr := x.sr.withNZ v d.w } := by
  unfold handleLoad at e
  split at e
  · next r hr =>
    cases ho : s.readOp (s.operand d sig) d.w with
    | error n => simp [loadInto, ho] at e
    | ok p =>
      obtain ⟨v, m⟩ := p
      cases hb : r.badWidth d.w with
      | true => simp [loadInto, ho, State.xwCommit, hb] at e
      | false =>
        rw [loadInto_done hb ho] at e
        cases e
        exact ⟨r, v, m, _, hr, rfl, rfl, rfl⟩
  · cases e

/-- STORE, done: the pending update, the operand's write, N and Z unless the action register is SR. -/
theorem handleStore_done {d : Descriptor} {sig : Long} {s u : State} (e : handleStore d sig s = .done u) :
    ∃ r v x, d.actionReg = some r ∧
      (s.applyPending (s.pending d)).storeOp (s.operand d sig) d.w v = .ok x ∧
      u = if r = .sr then x else { x with sr := x.sr.withNZ v d.w } := by
  unfold handleStore at e
  split at e
  · next r hr =>
    rcases xr_cases s r d.w with ⟨hb, hx⟩ | ⟨hb, hx⟩
    · simp [storeFrom, hx] at e
    · cases ho : (s.applyPending (s.pending d)).storeOp (s.operand d sig) d.w (lowBytes d.w (s.reg r)) with
      | error n => simp [storeFrom, hx, ho] at e
      | ok x =>
        rw [storeFrom_done hb ho] at e
        cases e
        exact ⟨r, _, x, hr, ho, rfl⟩
  · cases e

/-! ### Every instruction by its descriptor -/

/-- An instruction of one of the opcode table's own constructors. -/
abbrev OfTable (i : Instr) : Prop := ∀ d g, i ≠ .configured d g ∧ i ≠ .other d g

/-- The four forms of an instruction: a bound row of the table, UNIMPL, OTHER, and a row outside the table. -/
theorem instr_forms (i : Instr) :
    (OfTable i ∧ i.descriptor.kind ≠ .unimpl ∧ i.descriptor.kind ≠ .other) ∨ (∃ op, i = .unimpl op) ∨
      (∃ d g, i = .other d g) ∨ ∃ d g, i = .configured d g := by
  cases i
  case unimpl op => exact .inr (.inl ⟨op, rfl⟩)
  case other d g => exact .inr (.inr (.inl ⟨d, g, rfl⟩))
  case configured d g => exact .inr (.inr (.inr ⟨d, g, rfl⟩))
  all_goals exact .inl ⟨fun _ _ => ⟨nofun, nofun⟩, nofun, nofun⟩

/-- An instruction of the table runs the handler of its row's kind (spec/43_handlers.md R200). -/
theorem exec_ofTable {i : Instr} (h : OfTable i) (hk : i.descriptor.kind ≠ .unimpl) (s : State) :
    ∃ sig, exec i s = runHandler i.descriptor (handlerOf i.descriptor sig) s := by
  cases i with
  | unimpl op => exact absurd rfl hk
  | other d g => exact absurd rfl (h d g).2
  | configured d g => exact absurd rfl (h d g).1
  | jmps a => exact ⟨a.setWidth 32, rfl⟩
  | jmpl a => exact ⟨a, rfl⟩
  | jmpv a => exact ⟨a, rfl⟩
  | call a => exact ⟨a, rfl⟩
  | loadLImmD0 v => exact ⟨v, rfl⟩
  | loadBImmD1 v => exact ⟨v.setWidth 32, rfl⟩
  | loadLImmA0 v => exact ⟨v, rfl⟩
  | loadLImmA1 v => exact ⟨v, rfl⟩
  | storeWD0Disp16A0 x => exact ⟨x.setWidth 32, rfl⟩
  | loadLAbsLongD2 a => exact ⟨a, rfl⟩
  | storeBD0AbsShort a => exact ⟨a.setWidth 32, rfl⟩
  | loadLIndexedA0D1D3 x => exact ⟨x.setWidth 32, rfl⟩
  | loadWPcDisp16D4 x => exact ⟨x.setWidth 32, rfl⟩
  | loadWDisp8A0D7 x => exact ⟨x.setWidth 32, rfl⟩
  | loadLPcIndexedD1D2 x => exact ⟨x.setWidth 32, rfl⟩
  | loadWImmSr v => exact ⟨v.setWidth 32, rfl⟩
  | brk | stop | cop | rti | ret | loadWPostIncA0D0 | storeLD0PreDecA1 | loadBIndirectA0D5 | loadLD0D6 | pushLD0
  | pullLD5 | pushD0Count3 | pushWSr | pullWSr => exact ⟨0, rfl⟩

/-- The state a handler of instruction `i` has left: that of its descriptor's kind, or, for a term of the OTHER
constructor, that of kind OTHER. -/
def HandlerLeaves (i : Instr) (s u : State) : Prop :=
  ∃ sig, handlerOf i.descriptor sig (s.advanced i.descriptor) = .done u ∨
    ∃ d, i = .other d sig ∧ handleOther d sig (s.advanced d) = .done u

/-- Everything an instruction can answer with a next state: the error effect of a fatal error at the instruction, or
the state its handler leaves, with the row's cycles charged (spec/42_engine.md R174, R175). -/
theorem exec_next {i : Instr} {s t : State} (e : exec i s = .next t) :
    (∃ b r, r.code.fatal = true ∧ r.instrAddr = some s.pc ∧ t = s.raiseError b r) ∨
      ∃ u, HandlerLeaves i s u ∧ t = { u.charge i.descriptor.cycles with stepResult := true } := by
  have of_run : ∀ (d : Descriptor) (f : State → HandlerResult), runHandler d f s = .next t →
      (∃ b r, r.code.fatal = true ∧ r.instrAddr = some s.pc ∧ t = s.raiseError b r) ∨
        ∃ u, f (s.advanced d) = .done u ∧ t = { u.charge d.cycles with stepResult := true } := by
    intro d f hr
    rcases runHandler_next hr with hd | ⟨n, u, -, rfl⟩
    · exact .inr hd
    · exact .inl ⟨_, _, rfl, rfl, rfl⟩
  rcases instr_forms i with ⟨hT, hk, -⟩ | ⟨op, rfl⟩ | ⟨d, g, rfl⟩ | ⟨d, g, rfl⟩
  · obtain ⟨sig, hx⟩ := exec_ofTable hT hk s
    exact (of_run _ _ (hx ▸ e)).imp_right fun ⟨u, hu, ht⟩ => ⟨u, ⟨sig, .inl hu⟩, ht⟩
  · cases e
    exact .inl ⟨_, _, rfl, rfl, rfl⟩
  · simp only [exec, execOther] at e
    split at e
    · cases e
    · exact (of_run _ _ e).imp_right fun ⟨u, hu, ht⟩ => ⟨u, ⟨g, .inr ⟨d, rfl, hu⟩⟩, ht⟩
  · simp only [exec, execConfigured] at e
    split at e
    · cases e
    · split at e
      · cases e
        exact .inl ⟨_, _, rfl, rfl, rfl⟩
      · exact (of_run _ _ e).imp_right fun ⟨u, hu, ht⟩ => ⟨u, ⟨g, .inl hu⟩, ht⟩

/-! ### What the primitives leave alone, every handler leaves alone -/

/-- A part of the state that no primitive of an instruction writes, trap entry and waiting apart. -/
structure Frame {α : Type} (f : State → α) : Prop where
  didRead : ∀ (s : State) (a : Long) (n : Nat), f (s.didRead a n) = f s
  memWrite : ∀ (s : State) (a : Long) (n : Nat) (v : Long), f (s.memWrite a n v) = f s
  setReg : ∀ (s : State) (r : Reg) (v : Long), f (s.setReg r v) = f s
  setSr : ∀ (s : State) (r : SR), f { s with sr := r } = f s
  setPc : ∀ (s : State) (t : Long), f (s.setPc t) = f s
  jumpVector : ∀ (s : State) (a : Long), f (s.jumpVector a) = f s

namespace Frame

variable {α : Type} {f : State → α} (F : Frame f)
include F

theorem applyPending (s : State) (u : Option Pending) : f (s.applyPending u) = f s := by
  cases u with
  | none => rfl
  | some p => exact F.setReg _ _ _

theorem popPc (s : State) : f s.popPc = f s := by
  simp only [State.popPc, State.jumpLong, F.setPc, F.setReg, F.didRead]

theorem readOp {s t : State} {op : Operand} {w : Nat} {v : Long} (e : s.readOp op w = .ok (v, t)) : f t = f s := by
  rcases readOp_state e with rfl | ⟨ea, rfl⟩
  · rfl
  · exact F.didRead _ _ _

theorem writeOp {s t : State} {op : Operand} {w : Nat} {v : Long} (e : s.writeOp op w v = .ok t) : f t = f s := by
  rcases writeOp_state e with ⟨r, x, -, rfl⟩ | ⟨ea, -, rfl⟩
  · exact F.setReg _ _ _
  · exact F.memWrite _ _ _ _

theorem handlePush {d : Descriptor} {sig : Long} {s u : State} (e : handlePush d sig s = .done u) : f u = f s := by
  obtain ⟨t, v, hp, rfl⟩ := handlePush_done e
  rcases pushSource_state hp with rfl | ⟨ea, rfl⟩ <;>
    simp only [F.setReg, F.memWrite, F.applyPending, F.didRead]

theorem handlePull {d : Descriptor} {sig : Long} {s u : State} (e : handlePull d sig s = .done u) : f u = f s := by
  cases hr : d.actionReg with
  | some r =>
    obtain ⟨x, rfl⟩ := handlePull_done_reg hr e
    simp only [F.setReg, F.didRead]
  | none =>
    obtain ⟨op, p, v, hw⟩ := handlePull_done_mode hr e
    simp only [F.writeOp hw, F.setReg, F.applyPending, F.didRead]

/-- N and Z set or not, as LOAD and STORE end. -/
theorem ite_setSr (c : Prop) [Decidable c] (x : State) (r : SR) : f (if c then x else { x with sr := r }) = f x := by
  split
  · rfl
  · exact F.setSr x r

theorem handleLoad {d : Descriptor} {sig : Long} {s u : State} (e : handleLoad d sig s = .done u) : f u = f s := by
  obtain ⟨r, v, m, x, -, hm, rfl, rfl⟩ := handleLoad_done e
  rw [F.ite_setSr, F.setReg, F.applyPending, F.readOp hm]

theorem handleStore {d : Descriptor} {sig : Long} {s u : State} (e : handleStore d sig s = .done u) : f u = f s := by
  obtain ⟨r, v, x, -, hx, rfl⟩ := handleStore_done e
  rw [F.ite_setSr]
  rcases storeOp_state hx with ⟨-, rfl⟩ | hw
  · exact F.applyPending _ _
  · rw [F.writeOp hw, F.applyPending]

/-- The handlers that neither enter a trap nor wait nor run a configuration's program. -/
theorem handlerOf {d : Descriptor} {sig : Long} {s u : State} (e : handlerOf d sig s = .done u)
    (hk : d.kind ∉ [Kind.stop, .brk, .cop, .other]) : f u = f s := by
  unfold Machine.handlerOf at e
  cases h : d.kind <;> simp only [h] at e hk
  case push => exact F.handlePush e
  case pull => exact F.handlePull e
  case load => exact F.handleLoad e
  case store => exact F.handleStore e
  case stop | brk | cop | other => simp at hk
  all_goals cases e
  case rti | ret => exact F.popPc s
  case jmps | jmpl => exact F.setPc _ _
  case jmpv => exact F.jumpVector _ _
  case call => simp only [State.jumpLong, F.setPc, F.setReg, F.memWrite]

end Frame

/-- A part of the state that trap entry and waiting leave alone too. -/
structure TrapFrame {α : Type} (f : State → α) : Prop extends Frame f where
  enter : ∀ (s : State) (t : Trap), f (s.enter t) = f s
  wait : ∀ s : State, f { s with cpuState := .waiting } = f s

namespace TrapFrame

variable {α : Type} {f : State → α} (F : TrapFrame f)
include F

theorem writeReg {r t : OtherRun} {q : Reg} {n : Nat} {v : Long} (e : r.writeReg q n v = .ok t) :
    f t.state = f r.state := by
  unfold OtherRun.writeReg at e
  rcases xw_cases r.state q n v with ⟨-, h⟩ | ⟨-, h⟩ <;> simp only [h] at e <;> cases e
  exact F.setReg _ _ _

/-- One operation of an OTHER handler. -/
theorem otherOp {d : Descriptor} {sig : Long} {r t : OtherRun} {o : OtherOp} (e : r.op d sig o = .ok t) :
    f t.state = f r.state := by
  cases o <;> simp only [OtherRun.op] at e
  case writeReg q n v => exact F.writeReg e
  case readReg q n => split at e <;> cases e; rfl
  case setNZ v n =>
    rcases setNZ_cases r.state (r.val v) n with ⟨-, h⟩ | ⟨-, h⟩ <;> simp only [h] at e <;> cases e
    exact F.setSr _ _
  case ea => split at e <;> cases e <;> rfl
  case readOp n => split at e <;> cases e; next hr => exact F.readOp hr
  case writeOp n v =>
    split at e
    · exact F.writeReg e
    · split at e <;> cases e; next hw => exact F.writeOp hw
    · cases e
    · cases e
  case memRead a n => split at e <;> cases e; exact F.didRead _ _ _
  case memWrite a n v => split at e <;> cases e; exact F.memWrite _ _ _ _
  case fail n => cases e
  all_goals cases e
  case setZ | unpack => exact F.setSr _ _
  case jumpShort | jumpLong => exact F.setPc _ _
  case jumpVector => exact F.jumpVector _ _
  case enter => exact F.enter _ _
  case wait => exact F.wait _
  all_goals rfl

/-- A whole OTHER handler. -/
theorem otherRun {d : Descriptor} {sig : Long} {k : Nat} {r : OtherRun} {p : OtherProgram} {u : State}
    (e : OtherRun.run d sig k r p = .done u) : f u = f r.state := by
  induction p generalizing k r with
  | nil =>
    cases e
    unfold OtherRun.commit
    split
    · split
      · rfl
      · exact F.setReg _ _ _
    · rfl
  | cons o os ih =>
    cases k with
    | succ k =>
      have hskip : (if o.yields then r.push 0 else r).state = r.state := by split <;> rfl
      rw [ih e, hskip]
    | zero =>
      simp only [OtherRun.run] at e
      split at e
      · cases e
      · next ho => rw [ih e, F.otherOp ho]

theorem handleOther {d : Descriptor} {sig : Long} {s u : State} (e : handleOther d sig s = .done u) : f u = f s := by
  rcases handleOther_cases d sig s with ⟨-, h⟩ | ⟨op, prog, -, ⟨t, ht, h⟩ | ⟨n, t, -, h⟩⟩ <;> rw [h] at e <;> cases e
  exact F.otherRun ht

theorem handlerOf {d : Descriptor} {sig : Long} {s u : State} (e : handlerOf d sig s = .done u) : f u = f s := by
  by_cases hk : d.kind ∈ [Kind.stop, .brk, .cop, .other]
  · unfold Machine.handlerOf at e
    simp only [List.mem_cons, List.not_mem_nil, or_false] at hk
    rcases hk with h | h | h | h <;> simp only [h] at e
    · cases e; exact F.wait s
    · cases e; exact F.enter _ _
    · cases e; exact F.enter _ _
    · exact F.handleOther e
  · exact F.toFrame.handlerOf e hk

/-- What the handler of any instruction leaves. -/
theorem handlerLeaves {i : Instr} {s u : State} (h : HandlerLeaves i s u) : f u = f s := by
  obtain ⟨sig, h | ⟨d, -, h⟩⟩ := h
  · rw [F.handlerOf h, F.setPc]
  · rw [F.handleOther h, F.setPc]

end TrapFrame

end Sys2Proof.Machine
end

section
/-! SUPPORT. The frames of spec/10_state.md that an instruction keeps: the control state (R36-R50) and the status
register (R33). -/

namespace Sys2Proof.Machine

/-! ### The control state -/

/-- The control state alone: everything a program computes with blanked, and the VECTOR_PULL output with it. -/
def State.control (s : State) : State :=
  { s with
    d := Vector.replicate 8 0
    a := Vector.replicate 7 0
    usp := 0
    ssp := 0
    sr := SR.zero
    pc := 0
    pins := { s.pins with vectorPull := false }
    cpuState := .ready
    cycles := 0
    mem := []
    stepResult := false
    bus := [] }

/-- No primitive of an instruction writes the control state. -/
theorem trapFrame_control : TrapFrame State.control where
  didRead _ _ _ := rfl
  memWrite _ _ _ _ := rfl
  setReg _ _ _ := by simp [State.control]
  setSr _ _ := rfl
  setPc _ _ := rfl
  jumpVector _ _ := by simp [State.control]
  enter _ _ := by simp [State.control, State.enter]
  wait _ := rfl

/-- cpuState is written by trap entry and waiting alone. -/
theorem frame_cpuState : Frame State.cpuState where
  didRead _ _ _ := rfl
  memWrite _ _ _ _ := rfl
  setReg := setReg_cpuState
  setSr _ _ := rfl
  setPc _ _ := rfl
  jumpVector := jumpVector_cpuState

/-- Pins with the same inputs differ in the output at most. -/
theorem pins_eq_of_inputs {p q : Pins} (h : { p with vectorPull := false } = { q with vectorPull := false }) :
    p = { q with vectorPull := p.vectorPull } := by
  cases p; cases q; simpa using h

/-- A handler of a kind that neither traps, waits nor is OTHER leaves cpuState. -/
theorem handlerLeaves_cpuState {i : Instr} {s u : State} (h : HandlerLeaves i s u)
    (hk : i.descriptor.kind ∉ [Kind.stop, .brk, .cop, .other]) (ho : ∀ d g, i ≠ .other d g) :
    u.cpuState = s.cpuState := by
  obtain ⟨sig, h | ⟨d, hi, -⟩⟩ := h
  · rw [frame_cpuState.handlerOf h hk, setPc_cpuState]
  · exact absurd hi (ho d sig)

/-- Settles O36: an error keeps what the first part names, and a handler leaves the control state alone. -/
theorem controlStateFrame : Obligations.ControlStateFrame := by
  unfold Obligations.ControlStateFrame
  intro i s t e
  rcases exec_next e with ⟨b, r, -, -, rfl⟩ | ⟨u, hu, rfl⟩
  · exact ⟨by simp, fun h => by simp at h⟩
  · have hc : u.control = s.control := trapFrame_control.handlerLeaves hu
    have hcpu := handlerLeaves_cpuState hu
    simp only [State.control, State.mk.injEq, true_and] at hc
    obtain ⟨hcfg, hpins, hpause, hdecoded, herror, hbps, heph, hwatch, hcats, hlines, hhit,
      hreset, hreply, hsched⟩ := hc
    exact
      ⟨⟨hcfg, hdecoded, hbps, hwatch, hcats, hlines, hhit, hreset, hreply, hsched⟩,
        fun _ => ⟨herror, hpause, heph, pins_eq_of_inputs hpins, hcpu⟩⟩

/-! ### The status register -/

theorem setReg_sr_of_ne {r : Reg} (h : r ≠ .sr) (s : State) (v : Long) : (s.setReg r v).sr = s.sr := by
  cases r
  case sr => exact absurd rfl h
  case a7 => simp only [State.setReg]; split <;> rfl
  all_goals rfl

/-- No address register is SR, so no pending update writes it. -/
@[simp] theorem applyPending_sr (s : State) (u : Option Pending) : (s.applyPending u).sr = s.sr := by
  cases u with
  | none => rfl
  | some p => exact setReg_sr_of_ne (by cases p.reg <;> nofun) _ _

@[simp] theorem setReg_a7_sr (s : State) (v : Long) : (s.setReg .a7 v).sr = s.sr := setReg_sr_of_ne (by decide) s v

/-- A return restores no field of SR (spec/60_exceptions.md R294). -/
@[simp] theorem popPc_sr (s : State) : s.popPc.sr = s.sr := by
  simp [State.popPc, State.jumpLong]

theorem readOp_sr {s t : State} {op : Operand} {w : Nat} {v : Long} (e : s.readOp op w = .ok (v, t)) : t.sr = s.sr := by
  rcases readOp_state e with rfl | ⟨ea, rfl⟩ <;> rfl

theorem writeOp_sr {s t : State} {op : Operand} {w : Nat} {v : Long} (e : s.writeOp op w v = .ok t)
    (h : op ≠ .reg .sr) : t.sr = s.sr := by
  rcases writeOp_state e with ⟨r, x, rfl, rfl⟩ | ⟨ea, -, rfl⟩
  · exact setReg_sr_of_ne (fun hr => h (hr ▸ rfl)) _ _
  · rfl

theorem storeOp_sr_of_ne {s t : State} {op : Operand} {w : Nat} {v : Long} (e : s.storeOp op w v = .ok t)
    (h : op ≠ .reg .sr) : t.sr = s.sr :=
  writeOp_sr (storeOp_eq h s w v ▸ e) h

theorem handlePush_sr {d : Descriptor} {sig : Long} {s u : State} (e : handlePush d sig s = .done u) : u.sr = s.sr := by
  obtain ⟨t, v, hp, rfl⟩ := handlePush_done e
  rcases pushSource_state hp with rfl | ⟨ea, rfl⟩ <;> simp

theorem handlePull_sr {d : Descriptor} {sig : Long} {s u : State} {r : Reg} (hr : d.actionReg = some r) (h : r ≠ .sr)
    (e : handlePull d sig s = .done u) : u.sr = s.sr := by
  obtain ⟨x, rfl⟩ := handlePull_done_reg hr e
  rw [setReg_sr_of_ne h, setReg_a7_sr, didRead_sr]

/-- The status register `r` with N and Z at other values. -/
def SR.SameButNZ (r q : SR) : Prop := q = { r with n := q.n, z := q.z }

/-- N and Z set, or nothing written, on a state with the same SR. -/
theorem sameButNZ_ite {c : Prop} [Decidable c] {s x : State} (v : Long) (w : Nat) (h : x.sr = s.sr) :
    (s.sr).SameButNZ (if c then x else { x with sr := x.sr.withNZ v w }).sr := by
  unfold SR.SameButNZ
  split <;> simp [h, SR.withNZ]

/-- LOAD into a register other than SR. -/
theorem handleLoad_sr {d : Descriptor} {sig : Long} {s u : State} (e : handleLoad d sig s = .done u)
    (h : d.actionReg ≠ some .sr) : s.sr.SameButNZ u.sr := by
  obtain ⟨r, v, m, x, hr, hm, rfl, rfl⟩ := handleLoad_done e
  have hne : r ≠ .sr := fun hsr => h (hsr ▸ hr)
  exact sameButNZ_ite v d.w (by rw [setReg_sr_of_ne hne, applyPending_sr, readOp_sr hm])

/-- STORE to an operand other than SR. -/
theorem handleStore_sr {d : Descriptor} {sig : Long} {s u : State} (e : handleStore d sig s = .done u)
    (h : d.mode ≠ .regDirect .sr) : s.sr.SameButNZ u.sr := by
  obtain ⟨r, v, x, -, hx, rfl⟩ := handleStore_done e
  have hop : s.operand d sig ≠ .reg .sr := by
    unfold State.operand
    split <;> simp_all
  exact sameButNZ_ite v d.w ((storeOp_sr_of_ne hx hop).trans (applyPending_sr ..))

/-- Which kinds leave SR as it is, where a PULL has an action register other than SR. -/
theorem handlerOf_sr {d : Descriptor} {sig : Long} {s u : State} (e : handlerOf d sig s = .done u)
    (hk : d.kind ∉ [Kind.load, .store, .brk, .cop, .other])
    (hr : d.kind = .pull → ∃ r, d.actionReg = some r ∧ r ≠ .sr) : u.sr = s.sr := by
  unfold handlerOf at e
  cases h : d.kind <;> simp only [h] at e hk hr
  case push => exact handlePush_sr e
  case pull =>
    obtain ⟨r, hr, hne⟩ := hr trivial
    exact handlePull_sr hr hne e
  case load | store | brk | cop | other => simp at hk
  all_goals cases e
  case stop => rfl
  case rti | ret => exact popPc_sr s
  case jmps | jmpl => rfl
  case jmpv => exact jumpVector_sr _ _
  case call => simp [State.jumpLong]

/-- An instruction of the table leaves what its kind's handler leaves, and its kind is not OTHER. -/
theorem handlerLeaves_ofTable {i : Instr} {s u : State} (hT : OfTable i) (h : HandlerLeaves i s u) :
    i.descriptor.kind ≠ .other ∧ ∃ sig, handlerOf i.descriptor sig (s.advanced i.descriptor) = .done u := by
  constructor
  · rcases instr_forms i with ⟨-, -, hk⟩ | ⟨op, rfl⟩ | ⟨d, g, rfl⟩ | ⟨d, g, rfl⟩
    · exact hk
    · nofun
    · exact absurd rfl (hT d g).2
    · exact absurd rfl (hT d g).1
  · obtain ⟨sig, hu | ⟨d, hi, -⟩⟩ := h
    · exact ⟨sig, hu⟩
    · exact absurd hi (hT d sig).2

/-- Every PULL of the table but PULL.W SR has a data register as its destination. -/
theorem pull_actionReg {i : Instr} (hT : OfTable i) (hk : i.descriptor.kind = .pull) (h : i ≠ .pullWSr) :
    ∃ r, i.descriptor.actionReg = some r ∧ r ≠ .sr := by
  cases i
  case pullLD5 => exact ⟨.d 5, rfl, nofun⟩
  case pullWSr => exact absurd rfl h
  case other d g => exact absurd rfl (hT d g).2
  case configured d g => exact absurd rfl (hT d g).1
  all_goals cases hk

/-- No STORE of the table has SR as its destination. -/
theorem store_mode_ne_sr {i : Instr} (hT : OfTable i) (hk : i.descriptor.kind = .store) :
    i.descriptor.mode ≠ .regDirect .sr := by
  cases i
  case storeLD0PreDecA1 | storeWD0Disp16A0 | storeBD0AbsShort => nofun
  case other d g => exact absurd rfl (hT d g).2
  case configured d g => exact absurd rfl (hT d g).1
  all_goals cases hk

/-- Settles O34: an error keeps SR, and each kind's handler writes of it what the rule of the kind names. -/
theorem flagFrame : Obligations.FlagFrame := by
  unfold Obligations.FlagFrame
  intro i s t e hT
  refine ⟨fun hk hr => ?_, fun hk hne => ?_, ?_⟩
  · rcases exec_next e with ⟨b, r, -, -, rfl⟩ | ⟨u, hu, rfl⟩
    · rfl
    · obtain ⟨-, sig, hu⟩ := handlerLeaves_ofTable hT hu
      change (s.advanced i.descriptor).sr.SameButNZ u.sr
      rcases hk with hk | hk <;> simp only [handlerOf, hk] at hu
      · exact handleLoad_sr hu hr
      · exact handleStore_sr hu (store_mode_ne_sr hT hk)
  · rcases exec_next e with ⟨b, r, -, -, rfl⟩ | ⟨u, hu, rfl⟩
    · rfl
    · obtain ⟨hother, sig, hu⟩ := handlerLeaves_ofTable hT hu
      change u.sr = (s.advanced i.descriptor).sr
      exact handlerOf_sr hu (by simp_all) fun hp => pull_actionReg hT hp hne
  · rintro (rfl | rfl) <;> cases e <;> rfl

end Sys2Proof.Machine
end

section
/-! SUPPORT. The moves of host and devices, before the first Reset and after it (spec/10_state.md R36, R37, R56,
42_engine.md R188, 44_debugger.md R266), and the state after reset (R55). -/

namespace Sys2Proof.Machine

/-! ### The next move, by its agent -/

/-- The state in which a scheduled move begins, with the moves `rest` to come. -/
abbrev State.begun (s : State) (rest : List Move) : State := { s with bus := [], reply := none, schedule := rest }

theorem step_scheduled {s : State} {m : Move} {rest : List Move} (hc : Config.failure vecReset s.cfg = none)
    (h : s.schedule = m :: rest) : step s = (s.begun rest).move m := by
  rw [step_of_config hc, h]; rfl

/-- A host command that acts: paused, or one that needs no pause. -/
theorem step_host {s : State} {c : HostCommand} {rest : List Move} (hc : Config.failure vecReset s.cfg = none)
    (h : s.schedule = .host c :: rest) (hp : s.pauseFlag = true ∨ c.needsPaused = false) :
    step s = (s.begun rest).hostCommand c := by
  rw [step_scheduled hc h]
  refine if_neg fun ⟨hf, hn⟩ => ?_
  rcases hp with hp | hp
  · rw [hp] at hf; cases hf
  · rw [hp] at hn; cases hn

/-- A host command that needs the pause has no move in free-run. -/
theorem step_host_refused {s : State} {c : HostCommand} {rest : List Move} (hc : Config.failure vecReset s.cfg = none)
    (h : s.schedule = .host c :: rest) (hp : s.pauseFlag = false) (hn : c.needsPaused = true) :
    step s = .refused .hostAccessWhileRunning := by
  rw [step_scheduled hc h]
  exact if_pos ⟨hp, hn⟩

/-! ### Before the first Reset -/

/-- The engine's move is an ExecuteNext, in free-run with the worker's end. -/
theorem engineMove_beforeFirstReset {s : State} (h : s.resetDone = false) :
    s.engineMove = .refused .beforeFirstReset := by
  unfold State.engineMove State.workerMove
  rw [executeNext_beforeFirstReset h]
  split <;> rfl

theorem pause_resetDone (s : State) : s.pause.resetDone = s.resetDone := by rw [pause_eq]

theorem stepPaused_beforeFirstReset {s : State} (h : s.resetDone = false) :
    s.stepPaused = .refused .beforeFirstReset := by
  unfold State.stepPaused
  rw [executeNext_beforeFirstReset h]
  rfl

/-- Decode reads memory and configuration alone, so Pause does not change it. -/
theorem pause_decodeAt (s : State) (a : Long) : s.pause.decodeAt a = s.decodeAt a := by
  rw [pause_eq]; rfl

/-- Where no eligible instruction stands at the pc, or the processor is Halted, StepOver is Step. -/
theorem debugStepOver_eq_debugStep {s : State}
    (h : (∀ r, s.decodeAt s.pc = some r → r.truncated = true ∨ r.descriptor.stepOver = false) ∨
      s.cpuState = .halted) : s.debugStepOver = s.debugStep := by
  have hpc : s.pause.pc = s.pc := by rw [pause_eq]
  have hcpu : s.pause.cpuState = s.cpuState := by rw [pause_eq]
  simp only [State.debugStepOver, State.debugStep]
  split
  · next r hr =>
    have hhalt : s.cpuState = .halted := by
      refine h.resolve_left fun hn => ?_
      simp only [State.eligible, hpc, pause_decodeAt] at hr
      split at hr
      · next q hq =>
        rcases hn q hq with ht | ht <;> simp [ht] at hr
      · cases hr
    rw [if_pos (hcpu.trans hhalt)]
  · rfl

theorem debugStep_beforeFirstReset {s : State} (h : s.resetDone = false) :
    s.debugStep = .refused .beforeFirstReset :=
  stepPaused_beforeFirstReset ((pause_resetDone s).trans h)

/-- Settles O44: whoever asks for an ExecuteNext is refused, and the two commands that do none act. -/
theorem stepsBeforeTheFirstResetAreRefused : Obligations.StepsBeforeTheFirstResetAreRefused := by
  unfold Obligations.StepsBeforeTheFirstResetAreRefused
  intro s rest hd hc n
  refine ⟨?_, fun hs hp => ?_, fun hs => ?_, fun hs hn => ?_, fun hs hp => ?_, fun a v hs hp => ?_⟩
  · rintro (hs | hs)
    · rw [step_of_config hc, hs]
      exact engineMove_beforeFirstReset hd
    · rw [step_scheduled hc hs]
      exact engineMove_beforeFirstReset hd
  · rw [step_host hc hs (.inl hp)]
    simp only [State.hostCommand, executeNext_beforeFirstReset (s := s.begun rest) hd, andThen]
  · rw [step_host hc hs (.inr rfl)]
    simp only [State.hostCommand, debugStep_beforeFirstReset (s := s.begun rest) hd, andThen]
  · rw [step_host hc hs (.inr rfl)]
    simp only [State.hostCommand, debugStepOver_eq_debugStep (s := s.begun rest) hn,
      debugStep_beforeFirstReset (s := s.begun rest) hd, andThen]
  · exact step_host hc hs (.inl hp)
  · exact step_host hc hs (.inl hp)

/-! ### The state after reset -/

theorem reset_inv : State.reset.Inv where
  pcInRange := by decide
  memCanonical := rfl
  vectorPullLow := rfl
  ephemeralOnlyRunning _ := rfl
  haltedIsPaused _ := rfl
  breakpointsOrdered := rfl
  linesOrdered := rfl

/-- Reset sets every field that a machine before its first Reset holds a free value in. -/
theorem performReset_powerOn : (State.powerOn configP0 []).performReset = State.reset := by
  rfl

/-- Settles O52: the reset state meets each invariant, and is what Reset makes of the power-on state. -/
theorem resetStateMeetsTheInvariant : Obligations.ResetStateMeetsTheInvariant := by
  unfold Obligations.ResetStateMeetsTheInvariant
  exact ⟨reset_inv, performReset_powerOn, by decide⟩

/-! ### Host commands and devices -/

/-- An outcome with a next state is carried on. -/
theorem andThen_of_next {o : Host.Outcome State Fault Refusal} {t : State} (h : o = .next t) (f : State → State) :
    andThen o f = .next (f t) := by
  rw [h]; rfl

/-- JumpVector as one update: the vector read with VECTOR_PULL high, and the pc (spec/42_engine.md R182). -/
theorem jumpVector_eq (s : State) (a : Long) :
    s.jumpVector a =
      { s with
        pc := truncPc s.cfg (s.peek a 4)
        pins := { s.pins with vectorPull := false }
        bus := s.bus ++ [s.vecRecord a] } := by
  have hpeek : (s.driveVectorPull true).peek a 4 = s.peek a 4 := driveVectorPull_peek s true a 4
  simp only [State.jumpVector, State.didVecRead, State.didRead, hpeek]
  rfl

/-- What a move's record is cleared of does not bear on GetLine. -/
theorem begun_cacheLine_lineCache (s : State) (rest : List Move) (a : Long) :
    ((s.begun rest).cacheLine a).lineCache = (s.cacheLine a).lineCache := by
  have hdecode : (s.begun rest).decodeAt a = s.decodeAt a := rfl
  simp only [State.cacheLine, hdecode]
  split
  · rfl
  · split <;> rfl

/-- While paused the loop of ExecuteCycles ends before its first step (spec/42_engine.md R184). -/
theorem executeCycles_paused {s : State} (h : s.pauseFlag = true) (n : BitVec 64) (fuel : Nat) :
    executeCycles n fuel s = .next s := by
  cases fuel with
  | zero => rfl
  | succ fuel => simp [executeCycles, h]

/-- Settles O60: a device drives its pin, a command that needs the pause is refused in free-run, and every other one has
its effect on the state in which the move begins. -/
theorem hostCommandsNeedThePause : Obligations.HostCommandsNeedThePause := by
  unfold Obligations.HostCommandsNeedThePause
  intro s rest hc n status
  refine ⟨fun p level hs => ?_, fun c hs => ⟨step_host_refused hc hs, fun hp => ?_, ?_⟩⟩
  · rw [step_scheduled hc hs]
    cases p <;> rfl
  · rw [step_host hc hs (.inl hp)]
    refine ⟨?_, ?_, ?_, ?_, ?_, ?_, ?_, ?_, ?_, ?_, ?_, ?_, ?_⟩
    · rintro t rfl ht; exact andThen_of_next ht State.replyStatus
    · rintro m rfl; exact executeCycles_paused (s := s.begun rest) hp m 1
    · rintro rfl; rfl
    · rintro rfl; rfl
    · rintro rfl; rfl
    · rintro a rfl; rfl
    · rintro rfl
      simp only [State.hostCommand, State.snapshot, hp, n]
      rfl
    · rintro a rfl; rfl
    · rintro a rfl; rfl
    · rintro a rfl
      exact congrArg _ (jumpVector_eq (s.begun rest) a)
    · rintro a v rfl; rfl
    · rintro a rfl
      rw [← begun_cacheLine_lineCache s rest a]
      rfl
    · rintro rfl; rfl
  · have acts : c.needsPaused = false → step s = n.hostCommand c := fun hn => step_host hc hs (.inr hn)
    refine ⟨?_, ?_, ?_, ?_, ?_, ?_, ?_, ?_, ?_, ?_⟩
    · rintro t rfl ht; exact (acts rfl).trans (andThen_of_next ht State.replyStatus)
    · rintro t rfl ht; exact (acts rfl).trans (andThen_of_next ht State.replyStatus)
    · rintro rfl; exact acts rfl
    · rintro rfl; exact acts rfl
    · rintro rfl; exact acts rfl
    · rintro a l rfl; exact acts rfl
    · rintro a rfl; exact acts rfl
    · rintro on cats rfl; exact acts rfl
    · rintro lo hi rfl; exact acts rfl
    · rintro rfl; exact acts rfl

end Sys2Proof.Machine
end

section
/-! SUPPORT. The rules of spec/20_memory.md: the byte order of reads and writes (R61, R62), and the invariants of memory
and bus that every step keeps, the canonical form (R60) and VECTOR_PULL low with the consistent pause flags (R63). -/

namespace Sys2Proof.Machine

/-! ### The memory's canonical form -/

theorem memCanonical_enter {s : State} (t : Trap) (h : s.MemCanonical) : (s.enter t).MemCanonical :=
  memPutBE_wf _ _ _ h

theorem memCanonical_service {s : State} (v : Service) (h : s.MemCanonical) : (s.service v).MemCanonical := by
  cases v with
  | reset => exact h
  | trap t => exact memCanonical_enter t h

/-- Each write of a step keeps the memory or puts bytes in it at addresses of 32 bits. -/
theorem stepKept_memCanonical : StepKept State.MemCanonical where
  didRead _ _ h := h
  memWrite a n v h := memWrite_wf _ a n v h
  setReg _ _ h := by rw [State.MemCanonical, setReg_mem]; exact h
  setSr _ h := h
  setPc _ h := h
  jumpVector _ h := h
  enter t h := memCanonical_enter t h
  wait h := h
  retire _ h := h
  raise _ _ _ h := h
  skip h := h
  halted h := h
  service v h := memCanonical_service v h
  note _ _ h := h
  outOfRange _ _ _ h := h
  begins _ h := h
  drivePin p _ h := by cases p <;> exact h
  replies _ h := h
  reset h := h
  resetCycles h := h
  hostWriteByte a v h := memPut_wf a v h
  halt h := h
  pauses _ h := h
  resumes _ _ h := h
  cacheLine a h := by rw [cacheLine_eq]; exact h
  revalidate h := h
  putBreakpoint _ _ h := h
  dropBreakpoint _ h := h
  watch _ _ h := h
  keepLines _ h := h

/-- Settles O49: every write of memory, the core's or the loader's, is a byte write that keeps the form. -/
theorem memoryStaysCanonical : Obligations.MemoryStaysCanonical := by
  unfold Obligations.MemoryStaysCanonical
  intro s t h e
  exact stepKept_memCanonical.step e h

/-! ### VECTOR_PULL and the pause flags -/

/-- The three joint invariants of O50. -/
abbrev State.PinsAndPauseConsistent (s : State) : Prop :=
  s.VectorPullLow ∧ s.EphemeralOnlyRunning ∧ s.HaltedIsPaused

theorem pinsAndPauseConsistent_setReg {s : State} (r : Reg) (v : Long) (h : s.PinsAndPauseConsistent) :
    (s.setReg r v).PinsAndPauseConsistent := by
  simpa only [State.PinsAndPauseConsistent, State.VectorPullLow, State.EphemeralOnlyRunning, State.HaltedIsPaused,
    setReg_pins, setReg_pauseFlag, setReg_ephemeral, setReg_cpuState] using h

/-- Taking a trap wakes a Waiting processor, and no Halted one (spec/60_exceptions.md R290). -/
theorem awake_eq_halted_iff (c : CpuState) : c.awake = .halted ↔ c = .halted := by
  cases c <;> decide

/-- A trap ends with its vector read, which leaves VECTOR_PULL low; a Halted processor it takes it from stays so. -/
theorem pinsAndPauseConsistent_enter {s : State} (t : Trap) (h : s.PinsAndPauseConsistent) :
    (s.enter t).PinsAndPauseConsistent := by
  obtain ⟨-, heph, hhalt⟩ := h
  exact ⟨rfl, heph, fun hc => hhalt ((awake_eq_halted_iff _).1 hc)⟩

theorem pinsAndPauseConsistent_performReset (s : State) : s.performReset.PinsAndPauseConsistent :=
  ⟨rfl, fun _ => rfl, fun hc => nomatch hc⟩

/-- Clearing the pin of a serviced interrupt leaves the VECTOR_PULL output alone. -/
@[simp] theorem clear_vectorPull (p : Pins) (t : Trap) : (p.clear t).vectorPull = p.vectorPull := by
  cases t <;> rfl

theorem pinsAndPauseConsistent_service {s : State} (v : Service) (h : s.PinsAndPauseConsistent) :
    (s.service v).PinsAndPauseConsistent := by
  cases v with
  | reset => exact pinsAndPauseConsistent_performReset s
  | trap t =>
    obtain ⟨hvp, heph, hhalt⟩ := pinsAndPauseConsistent_enter t h
    exact ⟨(clear_vectorPull _ t).trans hvp, heph, hhalt⟩

/-- An error pauses, and the pause takes the ephemeral breakpoint with it (spec/60_exceptions.md R300). -/
theorem pinsAndPauseConsistent_raiseError {s : State} (b : List BusAccess) (e : ErrorRecord)
    (h : s.PinsAndPauseConsistent) : (s.raiseError b e).PinsAndPauseConsistent :=
  ⟨h.1, fun _ => rfl, fun _ => rfl⟩

/-- Each write of a step keeps the three: what pauses drops the ephemeral breakpoint, what halts pauses, and only a
processor that is not Halted resumes. -/
theorem stepKept_pinsAndPauseConsistent : StepKept State.PinsAndPauseConsistent where
  didRead _ _ h := h
  memWrite _ _ _ h := h
  setReg r v h := pinsAndPauseConsistent_setReg r v h
  setSr _ h := h
  setPc _ h := h
  jumpVector _ h := ⟨rfl, h.2⟩
  enter t h := pinsAndPauseConsistent_enter t h
  wait h := ⟨h.1, h.2.1, fun hc => nomatch hc⟩
  retire _ h := h
  raise b e _ h := pinsAndPauseConsistent_raiseError b e h
  skip h := h
  halted h := h
  service v h := pinsAndPauseConsistent_service v h
  note _ _ h := h
  outOfRange _ _ _ h := pinsAndPauseConsistent_raiseError _ _ h
  begins _ h := h
  drivePin p _ h := by cases p <;> exact h
  replies _ h := h
  reset _ := pinsAndPauseConsistent_performReset _
  resetCycles h := h
  hostWriteByte _ _ h := h
  halt h := ⟨h.1, fun _ => rfl, fun _ => rfl⟩
  pauses _ h := ⟨h.1, fun _ => rfl, fun _ => rfl⟩
  resumes _ hrun h := ⟨h.1, fun hp => Bool.noConfusion hp, fun hc => absurd hc hrun⟩
  cacheLine a h := by rw [cacheLine_eq]; exact h
  revalidate h := h
  putBreakpoint _ _ h := h
  dropBreakpoint _ h := h
  watch _ _ h := h
  keepLines _ h := h

/-- Settles O50: each write of a step keeps the three together. -/
theorem pinsAndPauseFlagsStayConsistent : Obligations.PinsAndPauseFlagsStayConsistent := by
  unfold Obligations.PinsAndPauseFlagsStayConsistent
  intro s t hvp heph hhalt e
  exact stepKept_pinsAndPauseConsistent.step e ⟨hvp, heph, hhalt⟩

/-! ### The byte order of reads and writes -/

/-- A read is the big-endian value of the bytes at its addresses (spec/20_memory.md R61). -/
theorem peek_eq_sigOf (s : State) (a : Long) (n : Nat) : s.peek a n = sigOf (s.bytesAt a n) := by
  induction n with
  | zero => rfl
  | succ n ih => simp [State.peek, ih, State.bytesAt, sigOf, List.range_succ]

/-- Addresses less than 2^32 apart are different. -/
theorem add_ofNat_ne {i n : Nat} (a : Long) (hi : i < n) (hn : n < 2 ^ 32) :
    a + BitVec.ofNat 32 i ≠ a + BitVec.ofNat 32 n := by
  intro h
  have hnat := congrArg BitVec.toNat (BitVec.add_right_inj a |>.1 h)
  simp only [BitVec.toNat_ofNat] at hnat
  omega

/-- After a write the bytes at its addresses are the value's, in big-endian order (spec/20_memory.md R62). -/
theorem bytesAt_memWrite (s : State) (a : Long) {n : Nat} (v : Long) (hn : n < 2 ^ 32) (h : s.MemCanonical) :
    (s.memWrite a n v).bytesAt a n = bytesBE n v := by
  induction n generalizing v with
  | zero => rfl
  | succ n ih =>
    have hlast : (s.memWrite a (n + 1) v).readByte (a + BitVec.ofNat 32 n) = v.setWidth 8 :=
      memByte_memPut_same (memPutBE_wf a n (v >>> 8) h) _ _
    have hinit : (s.memWrite a (n + 1) v).bytesAt a n = (s.memWrite a n (v >>> 8)).bytesAt a n :=
      List.map_congr_left fun i hi => memByte_memPut_other _ _ fun hia =>
        add_ofNat_ne a (List.mem_range.1 hi) (by omega) (BitVec.eq_of_toNat_eq hia)
    calc (s.memWrite a (n + 1) v).bytesAt a (n + 1)
        = (s.memWrite a (n + 1) v).bytesAt a n ++ [(s.memWrite a (n + 1) v).readByte (a + BitVec.ofNat 32 n)] := by
          simp [State.bytesAt, List.range_succ]
      _ = bytesBE (n + 1) v := by rw [hlast, hinit, ih _ (by omega), bytesBE]

/-- The value of the bytes of `v` is `v` cut to them. -/
theorem sigOf_bytesBE_eq_lowBytes {n : Nat} (hn : n ≤ 4) (v : Long) : sigOf (bytesBE n v) = lowBytes n v := by
  apply BitVec.eq_of_toNat_eq
  rw [sigOf_toNat (by rw [bytesBE_length]; exact hn), bytesToNat_bytesBE, lowBytes_toNat hn]

/-- A write is read back, cut to its width. -/
theorem peek_memWrite_same (s : State) (a : Long) {n : Nat} (v : Long) (hn : n ≤ 4) (h : s.MemCanonical) :
    (s.memWrite a n v).peek a n = lowBytes n v := by
  rw [peek_eq_sigOf, bytesAt_memWrite s a v (by omega) h, sigOf_bytesBE_eq_lowBytes hn]

/-- The byte of a value from bit `k` on, as the write shifts it out. -/
theorem extractLsb'_eq_setWidth_shift (v : Long) (k : Nat) : v.extractLsb' k 8 = (v >>> k).setWidth 8 := rfl

/-- Settles O11: the bytes written are the value's in big-endian order, and no other byte changes. -/
theorem writeThenRead : Obligations.WriteThenRead := by
  unfold Obligations.WriteThenRead
  intro s a v h
  refine ⟨fun n hn => ⟨peek_memWrite_same s a v (by omega) h, fun b hb => readByte_memWrite_other s a n v hb⟩, ?_⟩
  have hbytes := bytesAt_memWrite s a (n := 4) v (by decide) h
  simpa [State.bytesAt, List.range_succ, bytesBE, extractLsb'_eq_setWidth_shift] using hbytes

/-- Settles O10: each byte is appended below those at lower addresses. -/
theorem readsAreBigEndian : Obligations.ReadsAreBigEndian := by
  unfold Obligations.ReadsAreBigEndian
  intro s a
  have h1 : s.peek a 1 = (s.readByte a).setWidth 32 := by simp [State.peek]
  have h2 : s.peek a 2 = (s.readByte a ++ s.readByte (a + 1)).setWidth 32 := by
    rw [BitVec.setWidth_append_eq_shiftLeft_setWidth_or, ← h1]; rfl
  have h3 : s.peek a 3 = (s.readByte a ++ s.readByte (a + 1) ++ s.readByte (a + 2)).setWidth 32 := by
    rw [BitVec.setWidth_append_eq_shiftLeft_setWidth_or, ← h2]; rfl
  refine ⟨h1, h2, ?_⟩
  rw [← BitVec.setWidth_eq (_ ++ _), BitVec.setWidth_append_eq_shiftLeft_setWidth_or, ← h3]; rfl

end Sys2Proof.Machine
end

section
/-! SUPPORT. The rules of spec/30_encoding.md: encoder and decoder agree (R91, R96, R103), and what the decoder answers is
well-formed and bound by its ROM (R90, R100). An instruction is its descriptor with a signature value; each law is said
once for the descriptor and its signature, and only the lemmas about the signature look at the constructors. -/

namespace Sys2Proof

open Sys2Proof.Machine (OfTable instr_forms)

/-! ### An instruction as its descriptor and a signature value -/

/-- The raw signature value of an instruction (spec/30_encoding.md R96): its operand field, or the value it carries. -/
def Instr.signature : Instr → Long
  | .jmps x | .storeWD0Disp16A0 x | .storeBD0AbsShort x | .loadWPcDisp16D4 x | .loadWImmSr x => x.setWidth 32
  | .jmpl x | .jmpv x | .call x | .loadLImmD0 x | .loadLImmA0 x | .loadLImmA1 x | .loadLAbsLongD2 x => x
  | .loadBImmD1 x | .loadLIndexedA0D1D3 x | .loadWDisp8A0D7 x | .loadLPcIndexedD1D2 x => x.setWidth 32
  | .other _ sig | .configured _ sig => sig
  | .brk | .stop | .cop | .rti | .ret | .loadWPostIncA0D0 | .storeLD0PreDecA1 | .loadBIndirectA0D5 | .loadLD0D6 | .pushLD0
  | .pullLD5 | .pushD0Count3 | .pushWSr | .pullWSr | .unimpl _ => 0

theorem bytesBE_one_setWidth (x : Byte) : bytesBE 1 (x.setWidth 32) = [x] := by simp [bytesBE]

theorem encode_eq (i : Instr) :
    encode i = i.descriptor.opcode :: bytesBE (i.descriptor.length - 1) i.signature := by
  cases i with
  | loadBImmD1 x | loadLIndexedA0D1D3 x | loadWDisp8A0D7 x | loadLPcIndexedD1D2 x =>
    exact congrArg (List.cons _) (bytesBE_one_setWidth x).symm
  | _ => rfl

theorem setWidth_long_lt {n k : Nat} (x : BitVec n) (h : n = k) : (x.setWidth 32).toNat < 2 ^ k := by
  subst h
  rw [BitVec.toNat_setWidth]
  exact lt_of_le_of_lt (Nat.mod_le _ _) x.isLt

/-- The operand field of a row has the width of the row's signature. -/
theorem sigFits_of_wf {i : Instr} (h : i.wf = true) : i.descriptor.sigFits i.signature = true := by
  cases i with
  | other d g | configured d g => exact (Bool.and_eq_true _ _ ▸ h).2
  | jmps x | storeWD0Disp16A0 x | storeBD0AbsShort x | loadWPcDisp16D4 x | loadWImmSr x | loadBImmD1 x
  | loadLIndexedA0D1D3 x | loadWDisp8A0D7 x | loadLPcIndexedD1D2 x => exact decide_eq_true (setWidth_long_lt x rfl)
  | jmpl x | jmpv x | call x | loadLImmD0 x | loadLImmA0 x | loadLImmA1 x | loadLAbsLongD2 x =>
    exact decide_eq_true x.isLt
  | _ => rfl

/-! ### Rows of the opcode table -/

theorem Descriptor.sameForm_kind {d e : Descriptor} (h : d.sameForm e = true) : d.kind = e.kind := by
  rw [Descriptor.sameForm_eq h]

/-- Descriptors of one form are the same row of the table (spec/43_handlers.md R216). -/
theorem tableRow_congr {d e : Descriptor} (h : d.sameForm e = true) : tableRow d = tableRow e := by
  have hrow : ∀ r : TableRow, d.sameForm r.descriptor = e.sameForm r.descriptor := fun r => by
    rw [Descriptor.sameForm_eq h]; rfl
  simp only [tableRow, hrow]

theorem instr_descriptor {r : TableRow} (hr : r ∈ tableRows) (g : Long) : (r.instr g).descriptor = r.descriptor := by
  fin_cases hr <;> rfl

theorem instr_ofTable {r : TableRow} (hr : r ∈ tableRows) (g : Long) : OfTable (r.instr g) := by
  fin_cases hr <;> exact fun _ _ => ⟨nofun, nofun⟩

theorem kind_of_mem_tableRows : ∀ r ∈ tableRows, r.descriptor.kind ≠ .unimpl := by decide

/-- A row's instruction keeps the whole signature, when it fits the row: no row drops a bit of its field. -/
theorem instr_signature {r : TableRow} (hr : r ∈ tableRows) {g : Long} (h : r.descriptor.sigFits g = true) :
    (r.instr g).signature = g := by
  have narrow {k : Nat} (hk : g.toNat < 2 ^ k) : (g.setWidth k).setWidth 32 = g := by
    apply BitVec.eq_of_toNat_eq
    simp only [BitVec.toNat_setWidth]
    rw [Nat.mod_eq_of_lt hk, Nat.mod_eq_of_lt g.isLt]
  have empty (h0 : g.toNat < 2 ^ 0) : 0 = g := BitVec.eq_of_toNat_eq (Nat.lt_one_iff.1 h0).symm
  have h := of_decide_eq_true h
  fin_cases hr
  exacts [empty h, empty h, empty h, empty h, narrow h, rfl, rfl, rfl, empty h,
    rfl, narrow h, empty h, empty h, rfl, rfl, narrow h, rfl, narrow h, narrow h, narrow h, empty h, empty h, narrow h,
    narrow h, empty h, empty h, empty h, empty h, empty h, narrow h]

/-- An instruction of the table is what its row makes of its signature. -/
theorem tableRow_descriptor {i : Instr} (hT : OfTable i) (hk : i.descriptor.kind ≠ .unimpl) :
    ∃ r, tableRow i.descriptor = some r ∧ r.instr i.signature = i := by
  cases i with
  | unimpl op => exact absurd rfl hk
  | other d g => exact absurd rfl (hT d g).2
  | configured d g => exact absurd rfl (hT d g).1
  | jmps x | storeWD0Disp16A0 x | storeBD0AbsShort x | loadWPcDisp16D4 x | loadWImmSr x | loadBImmD1 x
  | loadLIndexedA0D1D3 x | loadWDisp8A0D7 x | loadLPcIndexedD1D2 x =>
    exact ⟨_, rfl, congrArg _ (BitVec.setWidth_setWidth_of_le x (by decide) |>.trans (BitVec.setWidth_eq x))⟩
  | _ => exact ⟨_, rfl, rfl⟩

/-! ### The instruction of a descriptor and a signature -/

theorem instrOf_fixed {d : Descriptor} (hk : d.kind ≠ .unimpl) (ho : d.kind ≠ .other) (sig : Long) :
    instrOf d sig = (tableRow d).elim (.configured d sig) (·.instr sig) := by
  unfold instrOf
  cases h : d.kind with
  | unimpl => exact absurd h hk
  | other => exact absurd h ho
  | _ => cases tableRow d <;> rfl

theorem instrOf_other {d : Descriptor} (h : d.kind = .other) (sig : Long) : instrOf d sig = .other d sig := by
  simp only [instrOf, h]

/-- A descriptor with a handler is of kind OTHER, a row of the table, or outside the table. -/
theorem instrOf_cases {d : Descriptor} (hk : d.kind ≠ .unimpl) (sig : Long) :
    (d.kind = .other ∧ instrOf d sig = .other d sig) ∨
      (∃ r, tableRow d = some r ∧ instrOf d sig = r.instr sig) ∨
      (d.kind ≠ .other ∧ tableRow d = none ∧ instrOf d sig = .configured d sig) := by
  by_cases ho : d.kind = .other
  · exact .inl ⟨ho, instrOf_other ho sig⟩
  · have h := instrOf_fixed hk ho sig
    cases ht : tableRow d with
    | some r => exact .inr (.inl ⟨r, rfl, by rw [h, ht]; rfl⟩)
    | none => exact .inr (.inr ⟨ho, rfl, by rw [h, ht]; rfl⟩)

theorem sigFits_congr {d e : Descriptor} (h : d.length = e.length) (sig : Long) : d.sigFits sig = e.sigFits sig := by
  rw [Descriptor.sigFits, Descriptor.sigFits, h]

/-- The bytes of a row's instruction are the row's opcode and the signature's bytes (spec/30_encoding.md R91, R96). -/
theorem encode_instrOf {d : Descriptor} {sig : Long} (hk : d.kind ≠ .unimpl) (hs : d.sigFits sig = true) :
    encode (instrOf d sig) = d.opcode :: bytesBE (d.length - 1) sig := by
  rcases instrOf_cases hk sig with ⟨-, h⟩ | ⟨r, hr, h⟩ | ⟨-, -, h⟩ <;> rw [h]
  · rfl
  · obtain ⟨hmem, hform⟩ := tableRow_some hr
    have hl := Descriptor.sameForm_length hform
    rw [encode_eq, instr_descriptor hmem, instr_signature hmem (sigFits_congr hl sig ▸ hs),
      Descriptor.sameForm_opcode hform, hl]
  · rfl

/-! ### Instructions bound by a ROM -/

theorem wf_ofTable {i : Instr} (hT : OfTable i) : i.wf = true := by
  cases i with
  | other d g => exact absurd rfl (hT d g).2
  | configured d g => exact absurd rfl (hT d g).1
  | _ => rfl

theorem boundBy_ofTable {i : Instr} (hT : OfTable i) (hk : i.descriptor.kind ≠ .unimpl) (rom : Rom) :
    i.boundBy rom = ((rom.row i.descriptor.opcode).sameForm i.descriptor &&
      (rom.row i.descriptor.opcode).failure.isNone) := by
  cases i with
  | unimpl op => exact absurd rfl hk
  | other d g => exact absurd rfl (hT d g).2
  | configured d g => exact absurd rfl (hT d g).1
  | _ => rfl

/-- What a ROM binds: the row of its opcode is UNIMPL, or passes its checks, has the length of the instruction's own
descriptor and makes the instruction of its signature (spec/30_encoding.md R90, R100). -/
theorem row_of_boundBy {rom : Rom} {i : Instr} (hw : i.wf = true) (hb : i.boundBy rom = true) :
    (∃ op, i = .unimpl op ∧ (rom.row op).kind = .unimpl) ∨
      let d := rom.row i.descriptor.opcode
      d.kind ≠ .unimpl ∧ d.failure = none ∧ d.length = i.descriptor.length ∧ instrOf d i.signature = i := by
  rcases instr_forms i with ⟨hT, hk, ho⟩ | ⟨op, rfl⟩ | ⟨d, g, rfl⟩ | ⟨d, g, rfl⟩
  · right
    rw [boundBy_ofTable hT hk, Bool.and_eq_true, Option.isNone_iff_eq_none] at hb
    obtain ⟨hform, hf⟩ := hb
    have hkind := Descriptor.sameForm_kind hform
    obtain ⟨r, hr, hi⟩ := tableRow_descriptor hT hk
    refine ⟨hkind ▸ hk, hf, Descriptor.sameForm_length hform, ?_⟩
    rw [instrOf_fixed (hkind ▸ hk) (hkind ▸ ho), tableRow_congr hform, hr]
    exact hi
  · exact .inl ⟨op, rfl, by simpa [Instr.boundBy, Instr.descriptor, unimplRow] using hb⟩
  · right
    have hrow : rom.row (Instr.other d g).descriptor.opcode = d := eq_of_beq hb
    simp only [Instr.wf, Bool.and_eq_true, beq_iff_eq, Option.isNone_iff_eq_none] at hw
    obtain ⟨⟨hk, hf⟩, -⟩ := hw
    rw [hrow]
    exact ⟨by rw [hk]; nofun, hf, rfl, instrOf_other hk g⟩
  · right
    obtain ⟨hrow, ht⟩ := Bool.and_eq_true_iff.1 hb
    replace hrow : rom.row (Instr.configured d g).descriptor.opcode = d := eq_of_beq hrow
    simp only [Instr.wf, Bool.and_eq_true, bne_iff_ne, Option.isNone_iff_eq_none] at hw ht
    obtain ⟨⟨⟨ho, hk⟩, hf⟩, -⟩ := hw
    rw [hrow]
    exact ⟨hk, hf, rfl, by rw [instrOf_fixed hk ho, ht]; rfl⟩

/-! ### The decoder on a row's bytes -/

theorem decode_unimpl {rom : Rom} {op : Byte} (h : (rom.row op).kind = .unimpl) (rest : List Byte) :
    decode rom (op :: rest) = .ok (.unimpl op, rest) := if_pos h

/-- The bytes of a row with a handler decode to the row's instruction of their signature. -/
theorem decode_row {rom : Rom} {op : Byte} {sig : Long} (hk : (rom.row op).kind ≠ .unimpl)
    (hf : (rom.row op).failure = none) (hs : (rom.row op).sigFits sig = true) (rest : List Byte) :
    decode rom (op :: bytesBE ((rom.row op).length - 1) sig ++ rest) = .ok (instrOf (rom.row op) sig, rest) := by
  have hsig : sigOf (bytesBE ((rom.row op).length - 1) sig) = sig :=
    sigOf_bytesBE (by have := Descriptor.bounds hf; omega) (of_decide_eq_true hs)
  have hlen := bytesBE_length ((rom.row op).length - 1) sig
  simp only [decode, List.cons_append, if_neg hk, hf]
  rw [if_neg (by simp [hlen]), List.take_left' hlen, List.drop_left' hlen, hsig]

/-! ### The statements -/

/-- Settles O2: the bytes are the opcode of the instruction's row and its signature, and the row makes the instruction of
that signature again. -/
theorem decodeOfEncode : Obligations.DecodeOfEncode := by
  unfold Obligations.DecodeOfEncode
  intro rom i rest hw hb
  rcases row_of_boundBy hw hb with ⟨op, rfl, hk⟩ | ⟨hk, hf, hl, hi⟩
  · exact decode_unimpl hk rest
  · have hs := (sigFits_congr hl i.signature).trans (sigFits_of_wf hw)
    calc decode rom (encode i ++ rest)
        = decode rom (i.descriptor.opcode :: bytesBE ((rom.row i.descriptor.opcode).length - 1) i.signature ++ rest) := by
          rw [encode_eq, hl]
      _ = .ok (i, rest) := by rw [decode_row hk hf hs, hi]

/-- Settles O3: the signature bytes that were taken come back from the signature they make. -/
theorem encodeOfDecode : Obligations.EncodeOfDecode := by
  unfold Obligations.EncodeOfDecode
  intro rom bytes i rest h
  obtain ⟨op, tail, rfl, ⟨-, rfl, rfl⟩ | ⟨hk, hf, hl, rfl, rfl⟩⟩ := decode_ok h
  · rfl
  · obtain ⟨-, h5, -, -⟩ := Descriptor.bounds hf
    have hlen : (tail.take ((rom.row op).length - 1)).length = (rom.row op).length - 1 := List.length_take_of_le hl
    have hback := bytesBE_sigOf (bs := tail.take ((rom.row op).length - 1)) (by omega)
    rw [hlen] at hback
    rw [encode_instrOf hk (sigFits_sigOf h5), hback, Rom.row_opcode, List.cons_append, List.take_append_drop]

/-- Settles O4: by the three forms of a row with a handler, besides UNIMPL. -/
theorem decodedIsWellFormedAndBound : Obligations.DecodedIsWellFormedAndBound := by
  unfold Obligations.DecodedIsWellFormedAndBound
  intro rom bytes i rest h
  obtain ⟨op, tail, -, ⟨hk, rfl, -⟩ | ⟨hk, hf, -, rfl, -⟩⟩ := decode_ok h
  · exact ⟨rfl, by simp [Instr.boundBy, Instr.descriptor, unimplRow, hk]⟩
  · obtain ⟨-, h5, -, -⟩ := Descriptor.bounds hf
    have hs := sigFits_sigOf (tail := tail) h5
    rcases instrOf_cases hk (sigOf (tail.take ((rom.row op).length - 1))) with
      ⟨ho, e⟩ | ⟨r, hr, e⟩ | ⟨ho, ht, e⟩ <;> rw [e]
    · simp [Instr.wf, Instr.boundBy, Instr.descriptor, ho, hf, hs]
    · obtain ⟨hmem, hform⟩ := tableRow_some hr
      have hd := instr_descriptor hmem (sigOf (tail.take ((rom.row op).length - 1)))
      have hopcode : r.descriptor.opcode = op := by rw [← Descriptor.sameForm_opcode hform, Rom.row_opcode]
      refine ⟨wf_ofTable (instr_ofTable hmem _), ?_⟩
      rw [boundBy_ofTable (instr_ofTable hmem _) (hd ▸ kind_of_mem_tableRows r hmem), hd, hopcode, hform, hf]
      rfl
    · simp [Instr.wf, Instr.boundBy, Instr.descriptor, ho, hk, hf, hs, ht]

/-- Settles O1: each word is the encoding of its instruction, which TEST_ROM binds. -/
theorem wordsOfTheOpcodeTable : Obligations.WordsOfTheOpcodeTable := by
  unfold Obligations.WordsOfTheOpcodeTable
  have word (i : Instr) (hw : i.wf = true) (hb : i.boundBy testRom = true) := decodeOfEncode testRom i [] hw hb
  exact ⟨word .brk rfl rfl, word (.jmps 0x1234) rfl rfl, word (.call 0x00001020) rfl rfl,
    word (.loadLImmD0 0x80000001) rfl rfl, word (.storeWD0Disp16A0 0xFFFE) rfl rfl,
    word (.loadLPcIndexedD1D2 0x02) rfl rfl, word .pushD0Count3 rfl rfl, word (.loadWImmSr 0x2700) rfl rfl,
    word (.unimpl 0xFF) rfl rfl⟩

end Sys2Proof
end

section
/-! SUPPORT. The length rule and the place of the mode's field (spec/30_encoding.md R94, R98), and why no step of a machine
whose configuration passes its check is refused for a row's shape (R90, R92, R100, R101). -/

namespace Sys2Proof

/-! ### Length and field -/

theorem Reg.width_eq_sixteen_iff (r : Reg) : r.width = 16 ↔ r = .sr := by
  cases r <;> simp [Reg.width]

theorem lengthAdjust_eq (d : Descriptor) :
    d.lengthAdjust = if d.lenAdj = true ∧ d.actionReg = some .sr then 1 else 0 := by
  unfold Descriptor.lengthAdjust
  cases d.lenAdj <;> cases d.actionReg <;> simp [Reg.width_eq_sixteen_iff]

theorem bytesToNat_append_bytes (as bs : List Byte) :
    bytesToNat (as ++ bs) = bytesToNat as * 2 ^ (8 * bs.length) + bytesToNat bs := by
  induction bs using List.reverseRecOn with
  | nil => simp [bytesToNat]
  | append_singleton bs b ih =>
    rw [← List.append_assoc, bytesToNat_append, bytesToNat_append, ih, List.length_append, List.length_singleton,
      Nat.mul_add, Nat.pow_add]
    ring

/-- The leading bytes of a big-endian value are its high bits. -/
theorem bytesToNat_take (bs : List Byte) (k : Nat) :
    bytesToNat bs / 2 ^ (8 * (bs.length - k)) = bytesToNat (bs.take k) := by
  have hlow : bytesToNat (bs.drop k) < 2 ^ (8 * (bs.length - k)) := List.length_drop ▸ bytesToNat_lt (bs.drop k)
  have hsplit := bytesToNat_append_bytes (bs.take k) (bs.drop k)
  rw [List.take_append_drop, List.length_drop] at hsplit
  rw [hsplit, Nat.mul_comm, Nat.mul_add_div (Nat.two_pow_pos _), Nat.div_eq_of_lt hlow, Nat.add_zero]

/-- The leading bytes of a signature, cut out of its value. -/
theorem lowBytes_shift_sigOf {bs : List Byte} {k : Nat} (hn : bs.length ≤ 4) (hk : k ≤ bs.length) :
    lowBytes k (sigOf bs >>> (8 * (bs.length - k))) = sigOf (bs.take k) := by
  have hlen : (bs.take k).length = k := List.length_take_of_le hk
  have hlt := bytesToNat_lt (bs.take k)
  rw [hlen] at hlt
  apply BitVec.eq_of_toNat_eq
  rw [lowBytes_toNat (by omega), BitVec.toNat_ushiftRight, Nat.shiftRight_eq_div_pow, sigOf_toNat hn, bytesToNat_take,
    Nat.mod_eq_of_lt hlt, sigOf_toNat (by omega)]

/-- Settles O5: only SR is 16 bits wide, and the field is the signature's high bytes. -/
theorem lengthAndField : Obligations.LengthAndField := by
  unfold Obligations.LengthAndField
  intro d
  have hadj := lengthAdjust_eq d
  refine ⟨?_, ?_, fun bytes h5 hlen hk => ?_⟩
  · simp [Descriptor.length, hadj, Reg.width_eq_sixteen_iff]
  · simp [Descriptor.length, hadj]
  · rw [Descriptor.field, ← hlen]
    exact lowBytes_shift_sigOf (by omega) (by omega)

/-! ### A ROM that passes its checks -/

/-- A descriptor passes when it passes each of WF1 to WF6. -/
theorem failure_eq_none_iff (d : Descriptor) :
    d.failure = none ↔
      d.wf1 = true ∧ d.wf2 = true ∧ d.wf3 = true ∧ d.wf4 = true ∧ d.wf5 = true ∧ d.wf6 = true := by
  unfold Descriptor.failure
  cases d.wf1 <;> cases d.wf2 <;> cases d.wf3 <;> cases d.wf4 <;> cases d.wf5 <;> cases d.wf6 <;> simp

theorem baseLength_bounds {d : Descriptor} (h : d.failure = none) : 1 ≤ d.baseLength ∧ d.baseLength ≤ 5 := by
  obtain ⟨h1, -⟩ := (failure_eq_none_iff d).1 h
  simp only [Descriptor.wf1, Bool.and_eq_true, decide_eq_true_eq] at h1
  exact ⟨h1.1.1.1, h1.1.1.2⟩

/-- WF5 of LOAD and STORE: the action register they read or write is there. -/
theorem actionReg_isSome {d : Descriptor} (h : d.failure = none) (hk : d.kind = .load ∨ d.kind = .store) :
    ∃ r, d.actionReg = some r := by
  obtain ⟨-, -, -, -, h5, -⟩ := (failure_eq_none_iff d).1 h
  rcases hk with hk | hk <;> simp only [Descriptor.wf5, hk, Bool.and_eq_true] at h5 <;>
    exact Option.isSome_iff_exists.1 h5.1

theorem failure_unimplRow {op : Byte} (h : op ≠ 0) : (unimplRow op).failure = none := by
  have h4 : (unimplRow op).wf4 = true := Bool.or_eq_true_iff.2 (.inl (bne_iff_ne.2 h))
  exact (failure_eq_none_iff _).2 ⟨rfl, rfl, rfl, h4, rfl, rfl⟩

theorem failure_of_mem_tableRows : ∀ r ∈ tableRows, r.descriptor.failure = none := by decide

theorem failure_of_rowFailure {rom : Rom} (h : rom.rowFailure = none) : ∀ d ∈ rom, d.failure = none := by
  induction rom with
  | nil => simp
  | cons d ds ih =>
    unfold Rom.rowFailure at h
    split at h
    · cases h
    · next hd => exact List.forall_mem_cons.2 ⟨hd, ih h⟩

/-- What construction guarantees of a ROM (spec/30_encoding.md R100): BRK at opcode 0x00, every listed row well-formed. -/
theorem romFailure_none {rom : Rom} (h : rom.failure = none) :
    (rom.row 0).kind = .brk ∧ ∀ d ∈ rom, d.failure = none := by
  unfold Rom.failure at h
  split at h
  · cases h
  · split at h
    · cases h
    · next hrows =>
      split at h
      · next hbrk => exact ⟨hbrk, failure_of_rowFailure hrows⟩
      · cases h

/-- Every row of such a ROM passes, the UNIMPL rows of the opcodes it does not list among them. -/
theorem row_failure_none {rom : Rom} (h : rom.failure = none) (op : Byte) : (rom.row op).failure = none := by
  obtain ⟨hbrk, hrows⟩ := romFailure_none h
  unfold Rom.row at hbrk ⊢
  cases hf : rom.find? fun d => d.opcode == op with
  | some d => exact hrows d (List.mem_of_find?_eq_some hf)
  | none =>
    refine failure_unimplRow fun h0 => ?_
    rw [← h0, hf] at hbrk
    cases hbrk

/-! ### The check of a configuration -/

/-- Once the parameters are in range, a configuration fails as its ROM does. -/
theorem configFailure_eq_rom {c : Config} (h1 : 1 ≤ c.memLimit) (h2 : c.memLimit ≤ 2 ^ c.pcBits.bits)
    (hirq : c.irqLevel ≠ 0)
    (hv : allCellsApart [vecReset, c.vecBrk, c.vecCop, c.vecAbort, c.vecNmi, c.vecIrq] = true) :
    Config.failure vecReset c = c.rom.failure.map fun f => .rom f.1 f.2 := by
  unfold Config.failure
  rw [if_neg (by simp [h1, h2]), if_neg (by simp [hv]), if_neg hirq]
  cases c.rom.failure <;> rfl

theorem romFailure_of_config {c : Config} (h : Config.failure vecReset c = none) : c.rom.failure = none := by
  unfold Config.failure at h
  split at h
  · cases h
  · split at h
    · cases h
    · split at h
      · cases h
      · split at h
        · cases h
        · assumption

end Sys2Proof

namespace Sys2Proof.Machine

/-! ### What a step can be refused for -/

/-- A LOAD or STORE with its action register is never refused: it is done, or reports the width. -/
theorem loadInto_ne_refused (r : Reg) (d : Descriptor) (sig : Long) (s : State) (x : Refusal) :
    loadInto r d sig s ≠ .refused x := by
  unfold loadInto
  split
  · nofun
  · split
    · nofun
    · split <;> nofun

theorem storeFrom_ne_refused (r : Reg) (d : Descriptor) (sig : Long) (s : State) (x : Refusal) :
    storeFrom r d sig s ≠ .refused x := by
  unfold storeFrom
  split
  · nofun
  · split
    · nofun
    · split <;> nofun

theorem handlePush_ne_refused (d : Descriptor) (sig : Long) (s : State) (x : Refusal) :
    handlePush d sig s ≠ .refused x := by
  unfold handlePush
  split
  · nofun
  · split <;> nofun

theorem handlePull_ne_refused (d : Descriptor) (sig : Long) (s : State) (x : Refusal) :
    handlePull d sig s ≠ .refused x := by
  unfold handlePull
  split
  · nofun
  · dsimp only
    split
    · split
      · nofun
      · split <;> nofun
    · split <;> nofun

/-- An OTHER opcode is refused for want of a handler alone (spec/43_handlers.md R215). -/
theorem handleOther_refused {d : Descriptor} {sig : Long} {s : State} {x : Refusal}
    (e : handleOther d sig s = .refused x) : x = .otherUndefined d.opcode := by
  rcases handleOther_cases d sig s with ⟨-, h⟩ | ⟨op, prog, -, ⟨t, -, h⟩ | ⟨n, t, -, h⟩⟩ <;> rw [h] at e <;> cases e
  rfl

/-- A row that passes its checks has a handler that refuses nothing, unless it is OTHER. -/
theorem handlerOf_refused {d : Descriptor} {sig : Long} {s : State} {x : Refusal} (hf : d.failure = none)
    (hk : d.kind ≠ .unimpl) (e : handlerOf d sig s = .refused x) : x = .otherUndefined d.opcode := by
  unfold handlerOf at e
  cases h : d.kind <;> simp only [h] at e
  case unimpl => exact absurd h hk
  case push => exact absurd e (handlePush_ne_refused d sig s x)
  case pull => exact absurd e (handlePull_ne_refused d sig s x)
  case load =>
    obtain ⟨r, hr⟩ := actionReg_isSome hf (.inl h)
    simp only [handleLoad, hr] at e
    exact absurd e (loadInto_ne_refused r d sig s x)
  case store =>
    obtain ⟨r, hr⟩ := actionReg_isSome hf (.inr h)
    simp only [handleStore, hr] at e
    exact absurd e (storeFrom_ne_refused r d sig s x)
  case other => exact handleOther_refused e
  all_goals cases e

theorem handler_refused {d : Descriptor} {f : State → HandlerResult} {s : State} {x : Refusal}
    (e : runHandler d f s = .refused x) : f (s.advanced d) = .refused x := by
  unfold runHandler at e
  split at e <;> cases e
  assumption

/-- The instruction of a row that passes its checks is refused for want of an OTHER handler alone. -/
theorem exec_instrOf_refused {d : Descriptor} {sig : Long} {s : State} {x : Refusal} (hk : d.kind ≠ .unimpl)
    (hf : d.failure = none) (e : exec (instrOf d sig) s = .refused x) : ∃ op, x = .otherUndefined op := by
  rcases instrOf_cases hk sig with ⟨-, h⟩ | ⟨r, hr, h⟩ | ⟨-, -, h⟩ <;> rw [h] at e
  · simp only [exec, execOther, hf] at e
    exact ⟨_, handleOther_refused (handler_refused e)⟩
  · obtain ⟨hmem, -⟩ := tableRow_some hr
    have hd := instr_descriptor hmem sig
    have hrk := kind_of_mem_tableRows r hmem
    obtain ⟨g, hx⟩ := exec_ofTable (instr_ofTable hmem sig) (hd ▸ hrk) s
    rw [hx, hd] at e
    exact ⟨_, handlerOf_refused (failure_of_mem_tableRows r hmem) hrk (handler_refused e)⟩
  · simp only [exec, execConfigured, hf, if_neg hk] at e
    exact ⟨_, handlerOf_refused hf hk (handler_refused e)⟩

/-- The reasons the spec itself gives for a step without a move (spec/10_state.md R56, 43_handlers.md R215). -/
abbrev Refusal.OfExecuteNext (x : Refusal) : Prop := x = .beforeFirstReset ∨ ∃ op, x = .otherUndefined op

theorem fetchAndExecute_refused {s : State} {x : Refusal} (h : s.cfg.rom.failure = none)
    (e : s.fetchAndExecute = .refused x) : ∃ op, x = .otherUndefined op := by
  have hf := row_failure_none h (s.readByte s.pc)
  unfold State.fetchAndExecute at e
  simp only [hf] at e
  split at e
  · cases e
  · split at e
    · cases e
    · next hk =>
      split at e
      · cases e
      · exact exec_instrOf_refused hk hf e

theorem executeNext_refused {s : State} {x : Refusal} (h : s.cfg.rom.failure = none)
    (e : s.executeNext = .refused x) : x.OfExecuteNext := by
  unfold State.executeNext at e
  split at e
  · cases e; exact .inl rfl
  · split at e
    · cases e
    · split at e
      · cases e
      · split at e
        · cases e
        · split at e
          · cases e
          · exact .inr (fetchAndExecute_refused h e)

theorem andThen_refused {o : Host.Outcome State Fault Refusal} {f : State → State} {x : Refusal}
    (e : andThen o f = .refused x) : o = .refused x := by
  unfold andThen at e
  split at e <;> cases e
  rfl

theorem workerMove_refused {s : State} {x : Refusal} (h : s.cfg.rom.failure = none)
    (e : s.workerMove = .refused x) : x.OfExecuteNext := executeNext_refused h (andThen_refused e)

theorem stepPaused_refused {s : State} {x : Refusal} (h : s.cfg.rom.failure = none)
    (e : s.stepPaused = .refused x) : x.OfExecuteNext := executeNext_refused h (andThen_refused e)

theorem pause_cfg (s : State) : s.pause.cfg = s.cfg := by rw [pause_eq]

theorem debugStepOver_refused {s : State} {x : Refusal} (h : s.cfg.rom.failure = none)
    (e : s.debugStepOver = .refused x) : x.OfExecuteNext := by
  have hp : s.pause.cfg.rom.failure = none := by rw [pause_cfg]; exact h
  simp only [State.debugStepOver] at e
  split at e
  · split at e
    · exact stepPaused_refused hp e
    · cases e
  · exact stepPaused_refused hp e

/-- ExecuteCycles as a command runs one iteration of its loop at most. -/
theorem executeCycles_refused {n : BitVec 64} {s : State} {x : Refusal} (h : s.cfg.rom.failure = none)
    (e : executeCycles n 1 s = .refused x) : x.OfExecuteNext := by
  simp only [executeCycles] at e
  split at e
  · split at e
    · cases e
    · cases e
    · next hw => cases e; exact workerMove_refused h hw
  · cases e

theorem hostCommand_refused {s : State} {c : HostCommand} {x : Refusal} (h : s.cfg.rom.failure = none)
    (e : s.hostCommand c = .refused x) : x.OfExecuteNext := by
  cases c <;> simp only [State.hostCommand] at e
  case executeNext => exact executeNext_refused h (andThen_refused e)
  case executeCycles n => exact executeCycles_refused h e
  case step => exact stepPaused_refused (by rw [pause_cfg]; exact h) (andThen_refused e)
  case stepOver => exact debugStepOver_refused h (andThen_refused e)
  all_goals cases e

theorem move_refused {s : State} {m : Move} {x : Refusal} (h : s.cfg.rom.failure = none)
    (e : s.move m = .refused x) : x = .hostAccessWhileRunning ∨ x.OfExecuteNext := by
  cases m with
  | engine =>
    simp only [State.move, State.engineMove] at e
    split at e
    · exact .inr (executeNext_refused h e)
    · exact .inr (workerMove_refused h e)
  | device p level => cases e
  | host c =>
    simp only [State.move, State.hostMove] at e
    split at e
    · cases e; exact .inl rfl
    · exact .inr (hostCommand_refused h e)

/-- A machine whose configuration passes its check is refused a step for the spec's own three reasons alone: before the
first Reset, without an OTHER handler, and a host access in free-run. -/
theorem step_refused {s : State} {x : Refusal} (h : Config.failure vecReset s.cfg = none) (e : step s = .refused x) :
    x = .hostAccessWhileRunning ∨ x.OfExecuteNext := by
  have hrom := romFailure_of_config h
  rw [step_of_config h] at e
  split at e
  · exact move_refused (s := s.beginMove) hrom e
  · next m rest _ => exact move_refused (s := s.begun rest) hrom e

/-- Settles O6: a failing configuration has no move; under a passing one each row passes its checks, and a step is refused
for other reasons alone. -/
theorem wellFormedRomIsNeverRefused : Obligations.WellFormedRomIsNeverRefused := by
  unfold Obligations.WellFormedRomIsNeverRefused
  intro s
  refine ⟨fun f hf => step_configRefused hf, fun c op h1 h2 hirq hv hrom => ?_, fun hc => ?_⟩
  · refine step_configRefused ?_
    rw [configFailure_eq_rom h1 h2 hirq hv, hrom]
    rfl
  · have hrom := romFailure_of_config hc
    refine ⟨(romFailure_none hrom).1, fun op => ?_, fun c op e => ?_, fun f e => ?_⟩
    · have hf := row_failure_none hrom op
      obtain ⟨hb1, hb5⟩ := baseLength_bounds hf
      exact ⟨Rom.row_opcode _ _, hf, hb1, hb5, Descriptor.bounds hf⟩
    · rcases step_refused hc e with h | h | ⟨op', h⟩ <;> cases h
    · rcases step_refused hc e with h | h | ⟨op', h⟩ <;> cases h

end Sys2Proof.Machine
end

section
/-! SUPPORT. The condition flags and the register ports (spec/40_flags.md): SetZ and SetNZ (R120, R121), the packed status
word as a sum of masks and its round trips (R123, R126), and what a sized read answers and a sized write leaves
(R130, R131), with A7 as the stack pointer it names (10_state.md R23). -/

namespace Sys2Proof.Machine

/-! ### SetZ and SetNZ -/

theorem lowBytes_beq_zero {n : Nat} (hn : n ≤ 4) (v : Long) :
    (lowBytes n v == 0) = decide (v.toNat % 2 ^ (8 * n) = 0) := by
  rw [← lowBytes_toNat hn, Bool.beq_eq_decide_eq, decide_eq_decide]
  exact BitVec.toNat_eq

theorem SR.setNZ_of_valid {w : Nat} (hw : w = 1 ∨ w = 2 ∨ w = 4) (r : SR) (v : Long) :
    r.setNZ v w = .ok { r with z := decide (v.toNat % 2 ^ (8 * w) = 0), n := v.toNat.testBit (8 * w - 1) } := by
  rw [SR.setNZ, if_pos ((validCount_iff w).2 hw), lowBytes_beq_zero (by omega)]
  rfl

theorem SR.setNZ_of_invalid {w : Nat} (hw : ¬(w = 1 ∨ w = 2 ∨ w = 4)) (r : SR) (v : Long) : r.setNZ v w = .error w :=
  if_neg (mt (validCount_iff w).1 hw)

/-- Settles O7: Z from the masked value, N from its top bit, and an error for any other width. -/
theorem flagPrimitives : Obligations.FlagPrimitives := by
  unfold Obligations.FlagPrimitives
  intro r v
  exact ⟨rfl, fun w hw => SR.setNZ_of_valid hw r v, fun w hw => SR.setNZ_of_invalid hw r v⟩

/-! ### Words in disjoint parts -/

theorem toNat_or_of_disjoint {k : Nat} {x y : BitVec k} (h : x &&& y = 0) : (x ||| y).toNat = x.toNat + y.toNat := by
  rw [← BitVec.add_eq_or_of_and_eq_zero x y h, BitVec.toNat_add_of_and_eq_zero h]

theorem and_not_disjoint {k : Nat} (x y m : BitVec k) : (x &&& ~~~m) &&& (y &&& m) = 0 :=
  BitVec.eq_of_getElem_eq fun j hj => by cases h : m[j] <;> simp [h]

theorem and_not_or_and {k : Nat} (x m : BitVec k) : (x &&& ~~~m) ||| (x &&& m) = x :=
  BitVec.eq_of_getElem_eq fun j hj => by cases h : m[j] <;> simp [h]

theorem toNat_and_not {k : Nat} (x m : BitVec k) : (x &&& ~~~m).toNat = x.toNat - (x &&& m).toNat := by
  have hsum := toNat_or_of_disjoint (and_not_disjoint x x m)
  rw [and_not_or_and] at hsum
  omega

theorem and_eq_self_iff {k : Nat} (x m : BitVec k) : x &&& m = x ↔ x &&& ~~~m = 0 := by
  constructor <;> intro h
  · rw [← h, BitVec.and_assoc, BitVec.and_not_self]
    exact BitVec.and_zero
  · have hx := and_not_or_and x m
    rw [h] at hx
    exact BitVec.zero_or.symm.trans hx

/-! ### Pack and Unpack -/

theorem flagBit_eq_twoPow (b : Bool) (k : Nat) : flagBit b k = if b then BitVec.twoPow 16 k else 0 := by
  cases b with
  | false => rfl
  | true => exact BitVec.eq_of_toNat_eq (by simp [flagBit, BitVec.toNat_twoPow])

@[simp] theorem getElem_flagBit (b : Bool) (k : Nat) {j : Nat} (hj : j < 16) :
    (flagBit b k)[j] = (b && decide (j = k)) := by
  cases b <;> simp [flagBit_eq_twoPow, BitVec.getElem_twoPow]

theorem toNat_flagBit (b : Bool) {k : Nat} (hk : k < 16) : (flagBit b k).toNat = b.toNat * 2 ^ k := by
  cases b <;> simp [flagBit_eq_twoPow, BitVec.toNat_twoPow_of_lt hk]

/-- A flag adds its mask to a word that does not hold its bit yet. -/
theorem toNat_or_flagBit {x : Half} (b : Bool) {k : Nat} (hk : k < 16) (hx : x[k] = false) :
    (x ||| flagBit b k).toNat = x.toNat + b.toNat * 2 ^ k := by
  rw [← toNat_flagBit b hk]
  refine toNat_or_of_disjoint (BitVec.eq_of_getElem_eq fun j hj => ?_)
  by_cases h : j = k
  · subst h; simp [hx]
  · simp [h]

/-- The interrupt level adds its three bits at bits 10:8 to a word that does not hold them yet. -/
theorem toNat_or_level {x : Half} (i : BitVec 3) (hx : x &&& 0x0700 = 0) :
    (x ||| i.setWidth 16 <<< 8).toNat = x.toNat + i.toNat * 2 ^ 8 := by
  have hi : i.setWidth 16 <<< 8 = (0x0700 : Half) &&& i.setWidth 16 <<< 8 := by revert i; decide
  have hd : x &&& i.setWidth 16 <<< 8 = 0 := by rw [hi, ← BitVec.and_assoc, hx]; exact BitVec.zero_and
  have hlt := i.isLt
  rw [toNat_or_of_disjoint hd, BitVec.toNat_shiftLeft, BitVec.toNat_setWidth, Nat.shiftLeft_eq]
  omega

theorem pack_toNat (r : SR) :
    r.pack.toNat =
      r.t1.toNat * 0x8000 + r.t0.toNat * 0x4000 + r.s.toNat * 0x2000 + r.m.toNat * 0x1000 + r.i.toNat * 0x100 +
        r.x.toNat * 0x10 + r.n.toNat * 0x8 + r.z.toNat * 0x4 + r.v.toNat * 0x2 + r.c.toNat * 0x1 := by
  have hhigh : (flagBit r.t1 15 ||| flagBit r.t0 14 ||| flagBit r.s 13 ||| flagBit r.m 12) &&& 0x0700 = 0 := by
    cases r.t1 <;> cases r.t0 <;> cases r.s <;> cases r.m <;> rfl
  simp (disch := simp) only [SR.pack, toNat_or_flagBit, toNat_or_level _ hhigh, toNat_flagBit]
  rfl

@[simp] theorem unpack_pack (r : SR) : SR.unpack r.pack = r := by
  have hi : (r.pack >>> 8).setWidth 3 = r.i := by
    refine BitVec.eq_of_getElem_eq fun j hj => ?_
    interval_cases j <;> simp [SR.pack]
  rw [SR.unpack, hi]
  simp [SR.pack]

/-- Bits 11 and 7:5 are dropped, whatever they were. -/
theorem pack_unpack (w : Half) : (SR.unpack w).pack = w &&& 0xF71F := by
  refine BitVec.eq_of_getElem_eq fun j hj => ?_
  interval_cases j <;> simp [SR.pack, SR.unpack]

theorem pack_unpack_eq_self_iff (w : Half) : (SR.unpack w).pack = w ↔ w &&& 0x08E0 = 0 := by
  rw [pack_unpack]
  exact and_eq_self_iff w 0xF71F

/-- Settles O8: each field adds its mask, and the masks together are the word without bits 11 and 7:5. -/
theorem packAndUnpack : Obligations.PackAndUnpack := by
  unfold Obligations.PackAndUnpack
  exact ⟨pack_toNat, unpack_pack, pack_unpack, pack_unpack_eq_self_iff⟩

/-! ### Replacing the low bytes -/

theorem patchLow_toNat {n : Nat} (hn : n ≤ 4) (old v : Long) :
    (patchLow n old v).toNat = old.toNat - old.toNat % 2 ^ (8 * n) + v.toNat % 2 ^ (8 * n) := by
  rw [patchLow, lowBytes, toNat_or_of_disjoint (and_not_disjoint _ _ _), toNat_and_not, ← lowBytes, ← lowBytes,
    lowBytes_toNat hn, lowBytes_toNat hn]

/-- A byte written to the packed SR keeps its upper byte. -/
theorem patchLow_one_setWidth (p : Half) (v : Long) :
    (patchLow 1 (p.setWidth 32) v).setWidth 16 = (p &&& 0xFF00) ||| (v.setWidth 8).setWidth 16 := by
  refine BitVec.eq_of_getElem_eq fun j hj => ?_
  interval_cases j <;> simp [patchLow, lowBytes]

theorem patchLow_two_setWidth (old v : Long) : (patchLow 2 old v).setWidth 16 = v.setWidth 16 := by
  refine BitVec.eq_of_getElem_eq fun j hj => ?_
  interval_cases j <;> simp [patchLow, lowBytes]

/-! ### The sized ports -/

theorem regWidth_of_ne_sr {r : Reg} (h : r ≠ .sr) : r.width = 32 := by
  cases r
  case sr => exact absurd rfl h
  all_goals rfl

section
variable {r : Reg} {n : Nat}

theorem xr_of_misfit (h : ¬(n = 1 ∨ n = 2 ∨ n = 4) ∨ r.width < 8 * n) (s : State) : s.xr r n = .error n :=
  if_pos ((badWidth_iff r n).2 h)

theorem xw_of_misfit (h : ¬(n = 1 ∨ n = 2 ∨ n = 4) ∨ r.width < 8 * n) (s : State) (v : Long) :
    s.xw r n v = .error n :=
  if_pos ((badWidth_iff r n).2 h)

theorem xr_of_fits (h : (n = 1 ∨ n = 2 ∨ n = 4) ∧ 8 * n ≤ r.width) (s : State) :
    s.xr r n = .ok (lowBytes n (s.reg r)) :=
  if_neg (Bool.eq_false_iff.1 ((badWidth_false_iff r n).2 h))

theorem xw_of_fits (h : (n = 1 ∨ n = 2 ∨ n = 4) ∧ 8 * n ≤ r.width) (s : State) (v : Long) :
    s.xw r n v = .ok (s.setReg r (patchLow n (s.reg r) v)) :=
  if_neg (Bool.eq_false_iff.1 ((badWidth_false_iff r n).2 h))

end

theorem reg_toNat (s : State) (r : Reg) :
    (s.reg r).toNat = if r = .sr then s.sr.pack.toNat else (s.reg r).toNat := by
  split
  · next h =>
    subst h
    exact BitVec.toNat_setWidth_of_le (by decide)
  · rfl

theorem xw_sr_byte (s : State) (v : Long) :
    s.xw .sr 1 v = .ok { s with sr := SR.unpack ((s.sr.pack &&& 0xFF00) ||| (v.setWidth 8).setWidth 16) } := by
  rw [xw_of_fits (by decide), ← patchLow_one_setWidth]
  rfl

theorem xw_sr_word (s : State) (v : Long) : s.xw .sr 2 v = .ok { s with sr := SR.unpack (v.setWidth 16) } := by
  rw [xw_of_fits (by decide), ← patchLow_two_setWidth (s.reg .sr) v]
  rfl

/-! ### A7 and the register it names -/

@[simp] theorem reg_physical (s : State) (r : Reg) : s.reg (s.physical r) = s.reg r := by
  cases r
  case a7 => cases h : s.sr.s <;> simp [State.physical, State.reg, h]
  all_goals rfl

@[simp] theorem setReg_physical (s : State) (r : Reg) (v : Long) : s.setReg (s.physical r) v = s.setReg r v := by
  cases r
  case a7 => cases h : s.sr.s <;> simp [State.physical, State.setReg, h]
  all_goals rfl

theorem physical_ne_a7 (s : State) (r : Reg) : s.physical r ≠ .a7 := by
  cases r
  case a7 => cases h : s.sr.s <;> simp [State.physical, h]
  all_goals nofun

theorem physical_ne_sr {r : Reg} (hr : r ≠ .sr) (s : State) : s.physical r ≠ .sr := by
  cases r
  case sr => exact absurd rfl hr
  case a7 => cases h : s.sr.s <;> simp [State.physical, h]
  all_goals nofun

/-- Which stack pointer A7 names depends on SR alone. -/
theorem physical_of_sr_eq {s t : State} (h : t.sr = s.sr) (r : Reg) : t.physical r = s.physical r := by
  cases r <;> simp [State.physical, h]

/-! ### Reading after a write -/

theorem reg_setReg_same {r : Reg} (hr : r ≠ .sr) (s : State) (v : Long) : (s.setReg r v).reg r = v := by
  cases r
  case sr => exact absurd rfl hr
  case a7 => cases h : s.sr.s <;> simp [State.setReg, State.reg, h]
  all_goals simp [State.setReg, State.reg]

/-- Registers that are neither SR nor the name A7 are stored apart from each other. -/
theorem reg_setReg_of_ne {p q : Reg} (hp : p ≠ .sr) (hp7 : p ≠ .a7) (hq7 : q ≠ .a7) (hne : q ≠ p) (s : State)
    (v : Long) : (s.setReg p v).reg q = s.reg q := by
  cases p with
  | sr => exact absurd rfl hp
  | a7 => exact absurd rfl hp7
  | d i =>
    cases q with
    | d j =>
      have hij : i.val ≠ j.val := fun e => hne (by rw [Fin.ext e])
      simp [State.setReg, State.reg, hij]
    | _ => rfl
  | a i =>
    cases q with
    | a j =>
      have hij : i.val ≠ j.val := fun e => hne (by rw [Fin.ext e])
      simp [State.setReg, State.reg, hij]
    | _ => rfl
  | usp =>
    cases q with
    | a7 => exact absurd rfl hq7
    | usp => exact absurd rfl hne
    | _ => rfl
  | ssp =>
    cases q with
    | a7 => exact absurd rfl hq7
    | ssp => exact absurd rfl hne
    | _ => rfl

theorem reg_setReg_of_physical_ne {r q : Reg} {s : State} (hr : r ≠ .sr) (h : s.physical q ≠ s.physical r) (v : Long) :
    (s.setReg r v).reg q = s.reg q :=
  calc (s.setReg r v).reg q
    _ = (s.setReg r v).reg ((s.setReg r v).physical q) := (reg_physical _ q).symm
    _ = (s.setReg (s.physical r) v).reg (s.physical q) := by
      rw [physical_of_sr_eq (setReg_sr_of_ne hr s v), setReg_physical]
    _ = s.reg (s.physical q) :=
      reg_setReg_of_ne (physical_ne_sr hr s) (physical_ne_a7 s r) (physical_ne_a7 s q) h s v
    _ = s.reg q := reg_physical s q

/-- Settles O9: a port answers by `badWidth` alone; a fitting write patches the register that the name stands for. -/
theorem sizedRegisterPorts : Obligations.SizedRegisterPorts := by
  unfold Obligations.SizedRegisterPorts
  intro s r n v
  refine ⟨fun h => ⟨xr_of_misfit h s, xw_of_misfit h s v⟩, fun h => ?_, fun ⟨hn, hr⟩ => ?_, xw_sr_byte s v,
    xw_sr_word s v, rfl, rfl, fun hr => ⟨reg_setReg_same hr s v, setReg_sr_of_ne hr s v, fun q hq =>
      reg_setReg_of_physical_ne hr hq v⟩⟩
  · exact ⟨_, xr_of_fits h s, by rw [lowBytes_toNat (by omega), ← reg_toNat]⟩
  · have hw := regWidth_of_ne_sr hr
    exact ⟨_, xw_of_fits ⟨hn, by omega⟩ s v, patchLow_toNat (by omega) _ _⟩

end Sys2Proof.Machine
end

section
/-! SUPPORT. The rules of spec/41_addressing.md: what each mode resolves to (R143-R155), the register that is both a mode's
and an instruction's own (R158, R160), and that an error leaves nothing of the instruction behind (R159). -/

namespace Sys2Proof.Machine

/-! ### Modes -/

/-- The index by its size (spec/41_addressing.md R150). -/
theorem index_eq (s : State) (x : IndexReg) (xs : IndexSize) :
    s.index x xs = if xs = .w then ((s.reg x.toReg).setWidth 16).signExtend 32 else s.reg x.toReg := by
  cases xs <;> rfl

/-- Settles O13: one clause for each mode, the indexed ones through the index by its size. -/
theorem addressingModes : Obligations.AddressingModes := by
  unfold Obligations.AddressingModes
  intro s d sig f d8 d16 index
  refine ⟨fun h => ?_, fun r h => ?_, fun r h => ?_, fun r h => ?_, fun r h => ?_, fun r h => ?_, fun r h => ?_,
    fun r x xs h => ?_, fun h => ?_, fun x xs h => ?_, fun h => ?_, fun h => ?_, fun h => ?_⟩ <;>
    simp only [State.operand, State.pending, h, index_eq, and_true] <;> rfl

/-! ### Errors -/

/-- Settles O25: a step that ends without a committed handler ends in the effect of a fatal error at the instruction. -/
theorem errorsRestoreTheState : Obligations.ErrorsRestoreTheState := by
  unfold Obligations.ErrorsRestoreTheState
  intro i s t e hfalse
  rcases exec_next e with ⟨b, r, hfatal, haddr, rfl⟩ | ⟨u, -, rfl⟩
  · exact ⟨r, by simp [State.raiseError, State.failed, hfatal], haddr⟩
  · cases hfalse

/-! ### LOAD and STORE by a row outside the table -/

/-- An instruction of a row that passes its checks runs the handler of the row's kind (spec/43_handlers.md R200). -/
theorem exec_configured {d : Descriptor} (hf : d.failure = none) (hk : d.kind ≠ .unimpl) (sig : Long) (s : State) :
    exec (.configured d sig) s = runHandler d (handlerOf d sig) s := by
  simp only [exec, execConfigured, hf, if_neg hk]

section
variable {d : Descriptor} {sig : Long} {s : State} {r : Reg} (hf : d.failure = none) (hr : d.actionReg = some r)
  (hb : r.badWidth d.w = false)
include hf hr hb

/-- A LOAD whose operand can be read, into a register that has the width, completes: the pending update, then the
register's write, then N and Z unless it is SR (spec/43_handlers.md R213, 41_addressing.md R158). -/
theorem exec_configured_load {v : Long} {m : State} (hk : d.kind = .load)
    (hv : (s.advanced d).readOp ((s.advanced d).operand d sig) d.w = .ok (v, m)) :
    exec (.configured d sig) s =
      let x := (m.applyPending ((s.advanced d).pending d)).setReg r (patchLow d.w (m.reg r) v)
      .next { (if r = .sr then x else { x with sr := x.sr.withNZ v d.w }).charge d.cycles with stepResult := true } := by
  rw [exec_configured hf (by simp [hk])]
  refine runHandler_done ?_
  simp only [handlerOf, hk, handleLoad, hr]
  exact loadInto_done hb hv

/-- A STORE whose operand can be written, from a register that has the width, completes: the write after the pending
update, then N and Z unless the register is SR (spec/43_handlers.md R214, 41_addressing.md R158). -/
theorem exec_configured_store {x : State} (hk : d.kind = .store)
    (hx : ((s.advanced d).applyPending ((s.advanced d).pending d)).storeOp ((s.advanced d).operand d sig) d.w
      (lowBytes d.w (s.reg r)) = .ok x) :
    exec (.configured d sig) s =
      .next { (if r = .sr then x else { x with sr := x.sr.withNZ (lowBytes d.w (s.reg r)) d.w }).charge d.cycles with
        stepResult := true } := by
  rw [exec_configured hf (by simp [hk])]
  refine runHandler_done ?_
  simp only [handlerOf, hk, handleStore, hr]
  exact storeFrom_done hb hx

end

/-! ### The register of the mode as the action register -/

/-- Every width a row may have fits a register other than SR. -/
theorem badWidth_of_failure_none {d : Descriptor} (hf : d.failure = none) {r : Reg} (hr : r ≠ .sr) :
    r.badWidth d.w = false := by
  obtain ⟨-, -, -, hw⟩ := d.bounds hf
  have hwidth := regWidth_of_ne_sr hr
  exact (badWidth_false_iff r d.w).2 ⟨hw, by omega⟩

/-- A write takes no more of a value than its low bytes. -/
theorem memPutBE_congr (m : List Host.Cell) (a : Long) {n : Nat} {v w : Long}
    (h : v.toNat % 2 ^ (8 * n) = w.toNat % 2 ^ (8 * n)) : memPutBE m a n v = memPutBE m a n w := by
  induction n generalizing v w with
  | zero => rfl
  | succ n ih =>
    have hpow : 2 ^ (8 * (n + 1)) = 256 * 2 ^ (8 * n) := by ring
    rw [hpow] at h
    have hlast : v.setWidth 8 = w.setWidth 8 := BitVec.eq_of_toNat_eq <| by
      rw [BitVec.toNat_setWidth, BitVec.toNat_setWidth, ← Nat.mod_mul_right_mod _ 256, h, Nat.mod_mul_right_mod]
    have hinit : memPutBE m a n (v >>> 8) = memPutBE m a n (w >>> 8) := ih <| by
      simp only [BitVec.toNat_ushiftRight, Nat.shiftRight_eq_div_pow, Nat.reducePow]
      rw [← Nat.mod_mul_right_div_self, h, Nat.mod_mul_right_div_self]
    rw [memPutBE, memPutBE, hlast, hinit]

theorem memPutBE_lowBytes (m : List Host.Cell) (a : Long) {n : Nat} (hn : n ≤ 4) (v : Long) :
    memPutBE m a n (lowBytes n v) = memPutBE m a n v :=
  memPutBE_congr m a (by rw [lowBytes_toNat hn, Nat.mod_mod])

/-- A LOAD from memory into An leaves the loaded bytes over An's own, whatever update of An its mode left pending: the
handler's write comes after it. -/
theorem load_an_from_memory {d : Descriptor} {sig ea : Long} {s : State} {i : Fin 7} (hf : d.failure = none)
    (hr : d.actionReg = some (.a i)) (hk : d.kind = .load) (hop : (s.advanced d).operand d sig = .mem ea) :
    ∃ t, exec (.configured d sig) s = .next t ∧ t.a[i] = patchLow d.w s.a[i] (s.peek ea d.w) := by
  have hb : (Reg.a i).badWidth d.w = false := badWidth_of_failure_none hf nofun
  have hw : validCount d.w = true := (validCount_iff _).2 ((badWidth_false_iff _ _).1 hb).1
  have hv : (s.advanced d).readOp ((s.advanced d).operand d sig) d.w =
      .ok (s.peek ea d.w, (s.advanced d).didRead ea d.w) := by
    simp [hop, State.readOp, hw]
  exact ⟨_, exec_configured_load hf hr hb hk hv, reg_setReg_same (r := .a i) nofun _ _⟩

/-- A STORE of An through -(An) stores An from before the decrement. -/
theorem store_an_preDec {d : Descriptor} {sig : Long} {s : State} {i : Fin 7} (hf : d.failure = none)
    (hr : d.actionReg = some (.a i)) (hk : d.kind = .store) (hm : d.mode = .preDec (.an i)) :
    ∃ t, exec (.configured d sig) s = .next t ∧ t.a[i] = s.a[i] - BitVec.ofNat 32 d.w ∧
      t.mem = memPutBE s.mem (s.a[i] - BitVec.ofNat 32 d.w) d.w s.a[i] := by
  have hb : (Reg.a i).badWidth d.w = false := badWidth_of_failure_none hf nofun
  have hw := ((badWidth_false_iff _ _).1 hb).1
  let ea := s.a[i] - BitVec.ofNat 32 d.w
  have hop : (s.advanced d).operand d sig = .mem ea := by simp only [State.operand, hm]; rfl
  have hp : (s.advanced d).pending d = some { reg := .an i, value := ea } := by simp only [State.pending, hm]; rfl
  have hx : ((s.advanced d).applyPending ((s.advanced d).pending d)).storeOp ((s.advanced d).operand d sig) d.w
      (lowBytes d.w (s.reg (.a i))) =
        .ok (((s.advanced d).setReg (.a i) ea).memWrite ea d.w (lowBytes d.w s.a[i])) := by
    rw [hop, hp, storeOp_eq (by simp), State.writeOp, if_pos ((validCount_iff _).2 hw)]
    rfl
  exact ⟨_, exec_configured_store hf hr hb hk hx, reg_setReg_same (r := .a i) nofun _ _,
    memPutBE_lowBytes s.mem ea (by omega) s.a[i]⟩

/-- Settles O14: both LOADs read memory into An, and the STORE reads An first. -/
theorem sameRegisterCases : Obligations.SameRegisterCases := by
  unfold Obligations.SameRegisterCases
  intro d sig s i hf hr
  refine ⟨fun hk hm => load_an_from_memory hf hr hk ?_, fun hk hm => load_an_from_memory hf hr hk ?_,
    store_an_preDec hf hr⟩ <;> simp only [State.operand, hm] <;> rfl

end Sys2Proof.Machine
end

section
/-! SUPPORT. The engine's move (spec/42_engine.md R170-R179, R184): what ExecuteNext and a free-run iteration answer in each
case, what a fetch leaves, Decode (R183), the cycles an instruction is charged (R174), and who leaves Waiting and Halted. -/

namespace Sys2Proof.Machine

/-! ### Cycles -/

/-- No primitive of an instruction writes the cycle counter: it is charged at the end alone. -/
theorem trapFrame_cycles : TrapFrame State.cycles where
  didRead _ _ _ := rfl
  memWrite _ _ _ _ := rfl
  setReg := setReg_cycles
  setSr _ _ := rfl
  setPc _ _ := rfl
  jumpVector := jumpVector_cycles
  enter _ _ := rfl
  wait _ := rfl

/-- Settles O35: an error keeps the counter, and a handler leaves it for the row's cycles to be added to. -/
theorem cycleAccounting : Obligations.CycleAccounting := by
  unfold Obligations.CycleAccounting
  intro i s t e
  rcases exec_next e with ⟨b, r, -, -, rfl⟩ | ⟨u, hu, rfl⟩
  · exact ⟨nofun, fun _ => rfl⟩
  · have hcycles : u.cycles = s.cycles := trapFrame_cycles.handlerLeaves hu
    exact ⟨fun _ => by simp [hcycles], nofun⟩

/-! ### ExecuteNext, case by case -/

/-- A skipped step, on an otherwise unchanged machine. -/
theorem executeNext_skips {s : State} (hd : s.resetDone = true) (hh : s.cpuState ≠ .halted)
    (h : s.pins.ready = false ∨ (s.cpuState = .waiting ∧ s.select = none)) : s.executeNext = .next s.skipStep := by
  rcases h with hr | ⟨hw, hs⟩
  · simp [State.executeNext, hd, hh, hr]
  · simp [State.executeNext, hd, hw, hs]

/-- A Halted step. -/
theorem executeNext_halted {s : State} (hd : s.resetDone = true) (hh : s.cpuState = .halted) :
    s.executeNext = .next { s with stepResult := false } := by
  simp [State.executeNext, hd, hh]

/-- A Ready step with nothing to service fetches. -/
theorem executeNext_fetches {s : State} (hd : s.resetDone = true) (h : s.Fetches) :
    s.executeNext = s.fetchAndExecute := by
  obtain ⟨hc, hr, hs⟩ := h
  simp [State.executeNext, hd, hc, hr, hs]

/-! ### Fetch and decode, case by case -/

theorem outOfRange_iff (c : Config) (a : Long) : outOfRange c a = true ↔ c.memLimit ≤ a.toNat := decide_eq_true_iff

theorem outOfRange_eq_false_iff (c : Config) (a : Long) : outOfRange c a = false ↔ a.toNat < c.memLimit := by
  simp [outOfRange]

/-- The opcode byte fetched and decoded: one read, and lastDecoded written (spec/42_engine.md R171, R172). -/
abbrev State.opcodeFetched (s : State) : State :=
  (s.didRead s.pc 1).noteDecoded (s.readByte s.pc) (s.cfg.rom.row (s.readByte s.pc)).mnemonic

theorem fetchAndExecute_pcOutOfRange {s : State} (h : s.cfg.memLimit ≤ s.pc.toNat) :
    s.fetchAndExecute = .next (s.raiseOutOfRange (s.lastDecoded.map LastDecoded.address) s.pc none) :=
  if_pos ((outOfRange_iff _ _).2 h)

theorem fetchAndExecute_unimpl {s : State} (h : s.pc.toNat < s.cfg.memLimit)
    (hk : (s.cfg.rom.row (s.readByte s.pc)).kind = .unimpl) :
    s.fetchAndExecute = exec (.unimpl (s.readByte s.pc)) s.opcodeFetched := by
  simp [State.fetchAndExecute, (outOfRange_eq_false_iff _ _).2 h, hk]

section
variable {s : State} {d : Descriptor} (h : s.pc.toNat < s.cfg.memLimit) (hd : s.cfg.rom.row (s.readByte s.pc) = d)
  (hk : d.kind ≠ .unimpl) (hf : d.failure = none)
include h hd hk hf

theorem fetchAndExecute_signatureOutOfRange {f : Long}
    (hfind : (sigAddrs s.pc (d.length - 1)).find? (outOfRange s.cfg) = some f) :
    s.fetchAndExecute = .next (s.opcodeFetched.raiseOutOfRange (some s.pc) f (some (s.readByte s.pc))) := by
  subst hd
  simp [State.fetchAndExecute, (outOfRange_eq_false_iff _ _).2 h, hk, hf, hfind]

theorem fetchAndExecute_inRange (hfind : (sigAddrs s.pc (d.length - 1)).find? (outOfRange s.cfg) = none) :
    s.fetchAndExecute =
      exec (instrOf d (sigOf ((sigAddrs s.pc (d.length - 1)).map s.readByte)))
        (s.opcodeFetched.didFetch (sigAddrs s.pc (d.length - 1))) := by
  subst hd
  simp [State.fetchAndExecute, (outOfRange_eq_false_iff _ _).2 h, hk, hf, hfind]

end

/-- A fetch changes the bus record alone, by one read of each address. -/
theorem didFetch_eq (s : State) (as : List Long) :
    s.didFetch as = { s with bus := s.bus ++ as.map fun a => s.readRecord a 1 } := by
  induction as generalizing s with
  | nil => simp [State.didFetch]
  | cons a as ih =>
    have hrecord : (fun b => (s.didRead a 1).readRecord b 1) = fun b => s.readRecord b 1 := by
      simp [State.readRecord]
    calc s.didFetch (a :: as) = (s.didRead a 1).didFetch as := rfl
      _ = { s with bus := s.bus ++ (a :: as).map fun b => s.readRecord b 1 } := by
        rw [ih, hrecord]; simp [State.didRead, State.readRecord]

/-- The first signature address out of range, by its place. -/
theorem find?_sigAddrs_eq_some {c : Config} {a : Long} {n k : Nat} (hk : k < n)
    (hout : c.memLimit ≤ (a + BitVec.ofNat 32 (k + 1)).toNat)
    (hin : ∀ j < k, (a + BitVec.ofNat 32 (j + 1)).toNat < c.memLimit) :
    (sigAddrs a n).find? (outOfRange c) = some (a + BitVec.ofNat 32 (k + 1)) := by
  rw [List.find?_eq_some_iff_getElem]
  refine ⟨(outOfRange_iff _ _).2 hout, k, by simpa [sigAddrs] using hk, by simp [sigAddrs], fun j hj => ?_⟩
  simpa [sigAddrs, outOfRange] using hin j hj

/-! ### The engine's step -/

/-- A step that belongs to the engine, by an empty schedule or a move of its own, is the engine's move. -/
theorem step_engine {s : State} {rest : List Move} (hc : Config.failure vecReset s.cfg = none)
    (h : s.schedule = [] ∧ rest = [] ∨ s.schedule = .engine :: rest) : step s = (s.begun rest).engineMove := by
  rcases h with ⟨hs, rfl⟩ | hs
  · have hbegin : s.beginMove = s.begun [] := by rw [State.begun, ← hs]; rfl
    rw [step_of_config hc, hs]
    exact congrArg State.engineMove hbegin
  · exact step_scheduled hc hs

/-- After a step whose error has paused the run the worker refreshes (spec/44_debugger.md R265, log 32). -/
theorem afterStep_paused {s : State} (hr : s.stepResult = false) (hp : s.pauseFlag = true) : s.afterStep = s.refresh := by
  simp [State.afterStep, hr, hp]

/-- After a step that returned false and did not pause the worker does nothing (spec/42_engine.md R184). -/
theorem afterStep_skipped {s : State} (hr : s.stepResult = false) (hp : s.pauseFlag = false) : s.afterStep = s := by
  simp [State.afterStep, hr, hp]

section
variable {s u : State} {rest : List Move} (h : s.EngineTurn rest)
include h

/-- The engine's step is its ExecuteNext, in free-run with the end of the worker's iteration. -/
theorem step_engineTurn :
    step s = if s.pauseFlag = true then (s.begun rest).executeNext
      else andThen (s.begun rest).executeNext State.afterStep := by
  obtain ⟨hs, -, hc⟩ := h
  exact step_engine hc hs

/-- A step that returns false and leaves the pause flag is the same in both modes of running. -/
theorem step_skips (e : (s.begun rest).executeNext = .next u) (hr : u.stepResult = false)
    (hp : u.pauseFlag = s.pauseFlag) : step s = .next u := by
  rw [step_engineTurn h, e]
  split
  · rfl
  · next hf => rw [andThen, afterStep_skipped hr (hp.trans (by simpa using hf))]

/-- An error pauses: in free-run the refresh of every pause follows. -/
theorem step_pauses (e : (s.begun rest).executeNext = .next u) (hr : u.stepResult = false) (hp : u.pauseFlag = true) :
    step s = .next (if s.pauseFlag = true then u else u.refresh) := by
  rw [step_engineTurn h, e]
  split
  · rfl
  · rw [andThen, afterStep_paused hr hp]

theorem State.EngineTurn.firstResetDone : s.resetDone = true := by
  obtain ⟨-, hd, -⟩ := h
  exact hd

/-- The row of any opcode passes its checks in a machine that has moves. -/
theorem State.EngineTurn.row_failure (op : Byte) : (s.cfg.rom.row op).failure = none := by
  obtain ⟨-, -, hc⟩ := h
  exact row_failure_none (romFailure_of_config hc) op

end

/-- Settles O43: each skipped step is an ExecuteNext that returns false and does not pause. -/
theorem skippedSteps : Obligations.SkippedSteps := by
  unfold Obligations.SkippedSteps
  intro s rest h skipped
  have hd := h.firstResetDone
  refine ⟨fun hh hr => ?_, fun hw hr hs => ?_, fun hh => ?_⟩
  · exact step_skips h (executeNext_skips (s := s.begun rest) hd hh (.inl hr)) rfl rfl
  · exact step_skips h (executeNext_skips (s := s.begun rest) hd (by simp [hw]) (.inr ⟨hw, hs⟩)) rfl rfl
  · exact step_skips h (executeNext_halted (s := s.begun rest) hd hh) rfl rfl

/-- Settles O45: the pc out of range stops the fetch before its first read, a signature address before its second. -/
theorem outOfRangePauses : Obligations.OutOfRangePauses := by
  unfold Obligations.OutOfRangePauses
  intro s rest h hfetch paused
  have hnext := executeNext_fetches (s := s.begun rest) h.firstResetDone hfetch
  refine ⟨fun hpc => ?_, ?_⟩
  · rw [fetchAndExecute_pcOutOfRange (s := s.begun rest) hpc] at hnext
    exact step_pauses h hnext rfl rfl
  · intro k f hpc d hk hlt hf hout hin
    subst hf
    rw [fetchAndExecute_signatureOutOfRange (s := s.begun rest) hpc rfl hk (h.row_failure _)
      (find?_sigAddrs_eq_some hlt hout hin)] at hnext
    exact step_pauses h hnext rfl rfl

/-- The bytes at addresses below MEM_LIMIT that decode to an instruction are fetched, and it is executed. -/
theorem fetchAndExecute_decoded {s : State} {i : Instr} {k : Nat} (hf : ∀ op, (s.cfg.rom.row op).failure = none)
    (hin : ∀ a ∈ s.pc :: sigAddrs s.pc k, a.toNat < s.cfg.memLimit)
    (hdec : decode s.cfg.rom (s.readByte s.pc :: (sigAddrs s.pc k).map s.readByte) = .ok (i, [])) :
    s.fetchAndExecute = exec i (s.opcodeFetched.didFetch (sigAddrs s.pc k)) := by
  obtain ⟨hpc, hsig⟩ := List.forall_mem_cons.1 hin
  obtain ⟨op, tail, hbytes, hcase⟩ := decode_ok hdec
  obtain ⟨rfl, rfl⟩ := List.cons.inj hbytes
  have hlen : ((sigAddrs s.pc k).map s.readByte).length = k := by simp [sigAddrs]
  rcases hcase with ⟨hk, rfl, hrest⟩ | ⟨hk, -, hle, rfl, hrest⟩
  · have h0 : k = 0 := by rw [← hlen, ← hrest]; rfl
    subst h0
    exact fetchAndExecute_unimpl hpc hk
  · have hk' : k = (s.cfg.rom.row (s.readByte s.pc)).length - 1 := by
      have hge := List.drop_eq_nil_iff.1 hrest.symm
      omega
    have hnone : (sigAddrs s.pc k).find? (outOfRange s.cfg) = none :=
      List.find?_eq_none.2 fun a ha => by simpa [outOfRange] using hsig a ha
    rw [← hk', List.take_of_length_le (by omega), fetchAndExecute_inRange hpc rfl hk (hf _) (hk' ▸ hnone), ← hk']

/-- Settles O39: the engine's move is an ExecuteNext that fetches, and a fetch is one read of each byte. -/
theorem stepRunsTheDecodedInstruction : Obligations.StepRunsTheDecodedInstruction := by
  unfold Obligations.StepRunsTheDecodedInstruction
  intro s rest i k h hfetch hin hdec fetched
  have hfetched : (s.begun rest).opcodeFetched.didFetch (sigAddrs s.pc k) = fetched := by
    rw [didFetch_eq]; rfl
  have hnext : (s.begun rest).executeNext = exec i fetched := by
    rw [executeNext_fetches (s := s.begun rest) h.firstResetDone hfetch, ← hfetched]
    exact fetchAndExecute_decoded (s := s.begun rest) h.row_failure hin hdec
  rw [step_engineTurn h, hnext]

/-! ### Leaving Waiting and Halted -/

theorem refresh_cpuState (s : State) : s.refresh.cpuState = s.cpuState := by rw [refresh_eq]

theorem pause_cpuState (s : State) : s.pause.cpuState = s.cpuState := by rw [pause_eq]

theorem replyStatus_cpuState (s : State) : s.replyStatus.cpuState = s.cpuState := rfl

theorem cacheLine_cpuState (s : State) (a : Long) : (s.cacheLine a).cpuState = s.cpuState := by rw [cacheLine_eq]

theorem hitTest_cpuState (s : State) : s.hitTest.cpuState = s.cpuState := by
  unfold State.hitTest
  split
  · rfl
  · split
    · rw [refresh_cpuState]
    · rfl

theorem afterStep_cpuState (s : State) : s.afterStep.cpuState = s.cpuState := by
  unfold State.afterStep
  split
  · exact hitTest_cpuState s
  · split
    · exact refresh_cpuState s
    · rfl

/-- The engine's move leaves the cpuState of its ExecuteNext. -/
theorem engineMove_cpuState {s t : State} (e : s.engineMove = .next t) :
    ∃ u, s.executeNext = .next u ∧ t.cpuState = u.cpuState := by
  unfold State.engineMove at e
  split at e
  · exact ⟨t, e, rfl⟩
  · obtain ⟨u, hu, rfl⟩ := andThen_next e
    exact ⟨u, hu, afterStep_cpuState u⟩

/-- Settles O46: every other ExecuteNext of a Waiting machine is a skipped step. -/
theorem onlyAServicedPinLeavesWaiting : Obligations.OnlyAServicedPinLeavesWaiting := by
  unfold Obligations.OnlyAServicedPinLeavesWaiting
  intro s t hs hw e hleft
  obtain ⟨hc, -⟩ := step_cases e
  obtain ⟨rest, hrest⟩ : ∃ rest, s.schedule = [] ∧ rest = [] ∨ s.schedule = .engine :: rest := by
    rcases hs with hs | ⟨rest, hs⟩
    · exact ⟨[], .inl ⟨hs, rfl⟩⟩
    · exact ⟨rest, .inr hs⟩
  rw [step_engine hc hrest] at e
  obtain ⟨u, hu, hcpu⟩ := engineMove_cpuState e
  rcases (executeNext_cases hu).2 with ⟨hh, -⟩ | ⟨-, -, rfl⟩ | ⟨-, hr, v, hv, -⟩ | ⟨-, -, -, rfl⟩ | ⟨hr, -⟩
  · exact absurd (hw.symm.trans hh) (by decide)
  · exact absurd (hcpu.trans hw) hleft
  · exact ⟨hr, v, hv⟩
  · exact absurd (hcpu.trans hw) hleft
  · exact absurd (hw.symm.trans hr) (by decide)

/-- ExecuteCycles returns at once when the counter has reached n, when paused and when Halted. -/
theorem executeCycles_returns {n : BitVec 64} {s : State}
    (h : n ≤ s.cycles ∨ s.pauseFlag = true ∨ s.cpuState = .halted) (fuel : Nat) : executeCycles n fuel s = .next s := by
  cases fuel with
  | zero => rfl
  | succ fuel =>
    refine if_neg fun ⟨hlt, hp, hh⟩ => ?_
    rcases h with h | h | h
    · exact absurd hlt (BitVec.not_lt.2 h)
    · rw [h] at hp; cases hp
    · exact hh h

section
variable {s t : State} (h : s.cpuState = .halted)
include h

theorem executeNext_keepsHalted (e : s.executeNext = .next t) : t.cpuState = .halted := by
  rw [executeNext_halted (executeNext_cases e).1 h] at e
  cases e
  exact h

theorem run_of_halted : s.run = s := by simp [State.run, h]

theorem debugStep_keepsHalted (e : s.debugStep = .next t) : t.cpuState = .halted := by
  obtain ⟨u, hu, rfl⟩ := andThen_next e
  exact (refresh_cpuState u).trans (executeNext_keepsHalted ((pause_cpuState s).trans h) hu)

/-- A host command other than Reset leaves a Halted machine Halted. -/
theorem hostCommand_keepsHalted {c : HostCommand} (hc : c ≠ .reset) (e : s.hostCommand c = .next t) :
    t.cpuState = .halted := by
  have hp : s.pause.cpuState = .halted := (pause_cpuState s).trans h
  cases c <;> simp only [State.hostCommand] at e
  case reset => exact absurd rfl hc
  case executeNext =>
    obtain ⟨u, hu, rfl⟩ := andThen_next e
    exact (replyStatus_cpuState u).trans (executeNext_keepsHalted h hu)
  case step =>
    obtain ⟨u, hu, rfl⟩ := andThen_next e
    exact (replyStatus_cpuState u).trans (debugStep_keepsHalted h hu)
  case stepOver =>
    rw [debugStepOver_eq_debugStep (.inr h)] at e
    obtain ⟨u, hu, rfl⟩ := andThen_next e
    exact (replyStatus_cpuState u).trans (debugStep_keepsHalted h hu)
  case executeCycles n =>
    rw [executeCycles_returns (.inr (.inr h))] at e
    cases e
    exact h
  case run =>
    rw [run_of_halted h] at e
    cases e
    exact h
  all_goals cases e
  case halt => rcases hostHalt_cases s with ⟨-, hx⟩ | ⟨-, hx⟩ <;> rw [hx] <;> rfl
  case getLine a => exact (cacheLine_cpuState s a).trans h
  case pause | addBreakpoint | removeBreakpoint | setInterruptWatch | invalidateLines | clearLines => exact hp
  all_goals exact h

end

/-- Settles O47: the engine and the devices leave a Halted machine Halted, and so does every command but Reset. -/
theorem onlyTheHostsResetLeavesHalted : Obligations.OnlyTheHostsResetLeavesHalted := by
  unfold Obligations.OnlyTheHostsResetLeavesHalted
  intro s t h e hleft
  obtain ⟨-, u, hu, hmove⟩ := step_cases e
  have hcpu : u.cpuState = .halted := by
    rcases hu with rfl | ⟨m, -, hu⟩
    · exact h
    · rw [hu]; exact h
  rcases hmove with ⟨-, e⟩ | ⟨-, e⟩ | ⟨p, level, -, rfl⟩ | ⟨c, hs, e⟩
  · exact absurd (executeNext_keepsHalted hcpu e) hleft
  · obtain ⟨v, hv, rfl⟩ := andThen_next e
    exact absurd ((afterStep_cpuState v).trans (executeNext_keepsHalted hcpu hv)) hleft
  · exact absurd (by cases p <;> exact hcpu) hleft
  · by_cases hc : c = .reset
    · exact ⟨u.schedule, hc ▸ hs⟩
    · exact absurd (hostCommand_keepsHalted hcpu hc e) hleft

/-! ### ExecuteCycles -/

/-- A skipped iteration of the worker: the step alone. -/
theorem workerMove_skips {s : State} (hd : s.resetDone = true) (hh : s.cpuState ≠ .halted) (hp : s.pauseFlag = false)
    (h : s.pins.ready = false ∨ (s.cpuState = .waiting ∧ s.select = none)) : s.workerMove = .next s.skipStep := by
  rw [State.workerMove, executeNext_skips hd hh h, andThen, afterStep_skipped (s := s.skipStep) rfl hp]

/-- Settles O55: a skipped iteration adds one cycle and keeps what made it a skipped one, so the loop counts to n. -/
theorem executeCyclesEnds : Obligations.ExecuteCyclesEnds := by
  unfold Obligations.ExecuteCyclesEnds
  intro n fuel s
  refine ⟨fun h => executeCycles_returns h fuel, fun hd hlt hp hh hfuel hskip => ?_⟩
  induction fuel generalizing s with
  | zero => bv_omega
  | succ fuel ih =>
    have hstep : executeCycles n (fuel + 1) s = executeCycles n fuel s.skipStep := by
      rw [executeCycles, if_pos ⟨hlt, hp, hh⟩, workerMove_skips hd hh hp hskip]
    have hcount : s.skipStep.cycles.toNat = s.cycles.toNat + 1 := by
      have : s.skipStep.cycles = s.cycles + 1 := rfl
      bv_omega
    rw [hstep]
    by_cases hend : s.skipStep.cycles < n
    · exact ih s.skipStep hd hend hp hh (by omega) hskip
    · have hn : s.skipStep.cycles = n := by bv_omega
      rw [executeCycles_returns (.inl (BitVec.not_lt.1 hend)), ← hn]
      rfl

/-! ### Decode -/

/-- The byte addresses of an instruction of n bytes. -/
theorem cons_sigAddrs (a : Long) {n : Nat} (hn : 1 ≤ n) :
    a :: sigAddrs a (n - 1) = (List.range n).map fun i => a + BitVec.ofNat 32 i := by
  obtain ⟨m, rfl⟩ := Nat.exists_eq_add_of_le' hn
  simp [sigAddrs, List.range_succ_eq_map]

/-- Decode reads as many bytes as there are addresses below MEM_LIMIT (spec/42_engine.md R183). -/
theorem decodeBytes_eq (s : State) (a : Long) {n : Nat} (hn : 1 ≤ n) :
    s.decodeBytes a n = s.bytesAt a
      ((List.range n).filter fun j => decide ((a + BitVec.ofNat 32 j).toNat < s.cfg.memLimit)).length := by
  have hbelow : (fun b : Long => !outOfRange s.cfg b) = fun b => decide (b.toNat < s.cfg.memLimit) := by
    funext b; rw [outOfRange, ← decide_not]; simp
  simp only [State.decodeBytes, cons_sigAddrs a hn, hbelow, List.countP_map,
    ← List.map_take, List.take_range, List.map_map]
  rw [min_eq_left (List.countP_le_length.trans_eq List.length_range), List.countP_eq_length_filter]
  rfl

theorem bytesAt_drop_one (s : State) (a : Long) (n : Nat) : (s.bytesAt a n).drop 1 = s.bytesAt (a + 1) (n - 1) := by
  cases n with
  | zero => rfl
  | succ n =>
    have hnext (i : Nat) : a + BitVec.ofNat 32 (i + 1) = a + 1 + BitVec.ofNat 32 i := by
      rw [Nat.add_comm, BitVec.ofNat_add, ← BitVec.add_assoc]; rfl
    simp only [State.bytesAt, List.range_succ_eq_map, List.map_cons, List.map_map, List.drop_succ_cons, List.drop_zero,
      Nat.add_sub_cancel]
    exact List.map_congr_left fun i _ => congrArg s.readByte (hnext i)

/-- The record Decode answers below MEM_LIMIT. -/
theorem decodeAt_inRange {s : State} {a : Long} {d : Descriptor} (h : a.toNat < s.cfg.memLimit)
    (hd : s.cfg.rom.row (s.readByte a) = d) :
    s.decodeAt a =
      some
        { address := a, opcode := s.readByte a, descriptor := d, length := d.length, bytes := s.decodeBytes a d.length
          sig := sigOf ((s.decodeBytes a d.length).drop 1), implemented := d.kind != .unimpl
          truncated := decide ((s.decodeBytes a d.length).length < d.length) } := by
  simp [State.decodeAt, (outOfRange_eq_false_iff _ _).2 h, hd]

/-- Settles O54: the bytes read are those of the first k addresses, and the host's commands only answer the record. -/
theorem decodeIsWithoutSideEffects : Obligations.DecodeIsWithoutSideEffects := by
  unfold Obligations.DecodeIsWithoutSideEffects
  intro s a
  refine ⟨fun h => if_pos ((outOfRange_iff _ _).2 h), ?_,
    fun hp hc rest => ⟨fun hs => step_host hc hs (.inl hp), fun hs => step_host hc hs (.inl hp)⟩⟩
  intro h d k hf
  constructor
  · obtain ⟨hpos, -⟩ := Descriptor.bounds hf
    have hbytes : s.decodeBytes a d.length = s.bytesAt a k := decodeBytes_eq s a hpos
    have hlen : (s.bytesAt a k).length = k := by simp [State.bytesAt]
    have himpl : (d.kind != .unimpl) = decide (d.kind ≠ .unimpl) := by cases d.kind <;> rfl
    rw [decodeAt_inRange (d := d) h rfl, hbytes, bytesAt_drop_one, hlen, himpl]
  · simpa [k] using List.length_filter_lt_length_iff_exists
      (p := fun j => decide ((a + BitVec.ofNat 32 j).toNat < s.cfg.memLimit)) (l := List.range d.length)

/-! ### Jumps -/

/-- The pc is cut to its low PC_BITS bits (spec/10_state.md R25). -/
theorem truncPc_toNat (c : Config) (t : Long) : (truncPc c t).toNat = t.toNat % 2 ^ c.pcBits.bits := by
  cases h : c.pcBits with
  | b24 =>
    simp only [truncPc, h, BitVec.toNat_and, PcBits.bits]
    exact Nat.and_two_pow_sub_one_eq_mod _ 24
  | b32 =>
    simp only [truncPc, h, PcBits.bits]
    exact (Nat.mod_eq_of_lt t.isLt).symm

/-- Settles O12: JumpShort and JumpLong write the pc alone, JumpVector makes its vector read first. -/
theorem jumpOperations : Obligations.JumpOperations := by
  unfold Obligations.JumpOperations
  intro s a l
  exact ⟨rfl, rfl, jumpVector_eq s l, truncPc_toNat s.cfg l⟩

end Sys2Proof.Machine
end

section
/-! SUPPORT. The control handlers of spec/43_handlers.md: trap instructions and STOP (R202-R204), returns, jumps and
CALL (R207-R212), by the rows of the table and by any well-formed row. One lemma per handler says what it leaves of the
state that runs it; a row's statement adds the row's length, cycles and field. -/

namespace Sys2Proof.Machine

/-! ### An instruction that commits or raises an error -/

/-- A handler that is done commits: the row's cycles on top of the start state's, and the step returns true. -/
theorem runHandler_commits {d : Descriptor} {sig : Long} {s u : State} (h : handlerOf d sig (s.advanced d) = .done u) :
    runHandler d (handlerOf d sig) s =
      .next { u with cycles := s.cycles + BitVec.ofNat 64 d.cycles, stepResult := true } := by
  have hc : u.cycles = (s.advanced d).cycles := trapFrame_cycles.handlerOf h
  rw [runHandler_done h, State.charge, hc]
  rfl

theorem exec_configured_commits {d : Descriptor} {sig : Long} {s u : State} (hf : d.failure = none)
    (h : handlerOf d sig (s.advanced d) = .done u) :
    exec (.configured d sig) s =
      .next { u with cycles := s.cycles + BitVec.ofNat 64 d.cycles, stepResult := true } := by
  have hk : d.kind ≠ .unimpl := fun hk => by simp [handlerOf, hk] at h
  rw [exec_configured hf hk, runHandler_commits h]

theorem exec_configured_raises {d : Descriptor} {sig : Long} {s u : State} {n : Nat} (hf : d.failure = none)
    (h : handlerOf d sig (s.advanced d) = .raised n u) :
    exec (.configured d sig) s =
      .next
        { s.failed true
            { code := .invalidOperandWidth, instrAddr := some s.pc, faultAddr := none, opcode := some d.opcode } with
          bus := u.bus } := by
  have hk : d.kind ≠ .unimpl := fun hk => by simp [handlerOf, hk] at h
  rw [exec_configured hf hk, runHandler_raised h]
  rfl

/-! ### What each handler leaves -/

/-- A register write does not see pc, memory and bus, and leaves them. -/
theorem setReg_update (s : State) (r : Reg) (v p : Long) (m : List Host.Cell) (b : List BusAccess) :
    { s with pc := p, mem := m, bus := b }.setReg r v = { s.setReg r v with pc := p, mem := m, bus := b } := by
  cases r
  case a7 => simp only [State.setReg]; split <;> rfl
  all_goals rfl

/-- Trap entry as one update (spec/60_exceptions.md R290). -/
theorem enter_eq_entered (s : State) (t : Trap) : s.enter t = s.entered t s.pc := by
  simp only [State.enter, jumpVector_eq, memWrite_bus, List.append_assoc]
  rfl

/-- A trap instruction pushes the address of the instruction after it. -/
theorem enter_advanced (s : State) (d : Descriptor) (t : Trap) :
    (s.advanced d).enter t = s.entered t (s.nextPc d.length) :=
  enter_eq_entered _ t

/-- A register write, then a jump: what stood in the pc before is lost. -/
theorem setPc_setReg_update (s : State) (r : Reg) (v p t : Long) (m : List Host.Cell) (b : List BusAccess) :
    ({ s with pc := p, mem := m, bus := b }.setReg r v).setPc t =
      { s.setReg r v with pc := truncPc s.cfg t, mem := m, bus := b } := by
  rw [setReg_update]
  simp only [State.setPc, setReg_cfg]

/-- A return overwrites the advanced pc. -/
theorem popPc_advanced (s : State) (d : Descriptor) : (s.advanced d).popPc = s.popped :=
  (setPc_setReg_update s .a7 (s.reg .a7 + 4) (s.nextPc d.length) (s.peek (s.reg .a7) 4) s.mem
    (s.bus ++ [s.readRecord (s.reg .a7) 4])).trans (by simp only [State.popped, setReg_mem])

theorem jumpVector_advanced (s : State) (d : Descriptor) (a : Long) : (s.advanced d).jumpVector a = s.jumpVector a := by
  rw [jumpVector_eq, jumpVector_eq]
  rfl

theorem handleCall_advanced (d : Descriptor) (sig : Long) (s : State) :
    handleCall d sig (s.advanced d) =
      .done
        { s.setReg .a7 (s.reg .a7 - 4) with
          mem := memPutBE s.mem (s.reg .a7 - 4) 4 (s.nextPc d.length)
          bus := s.bus ++ [s.writeRecord (s.reg .a7 - 4) 4 (s.nextPc d.length)]
          pc := truncPc s.cfg (d.field sig) } :=
  congrArg HandlerResult.done <|
    setPc_setReg_update s .a7 (s.reg .a7 - 4) (s.nextPc d.length) (d.field sig)
      (memPutBE s.mem (s.reg .a7 - 4) 4 (s.nextPc d.length))
      (s.bus ++ [s.writeRecord (s.reg .a7 - 4) 4 (s.nextPc d.length)])

/-! ### The mode's field of a row -/

/-- Where the mode's field is all of a signature, it is the signature's value (spec/30_encoding.md R98). -/
theorem field_eq_signature {d : Descriptor} {sig : Long} (hl : d.length ≤ 5)
    (hk : d.mode.fieldBytes d.w = d.length - 1) (hs : d.sigFits sig = true) : d.field sig = sig := by
  simp only [Descriptor.field, hk, Nat.sub_self, Nat.mul_zero, BitVec.ushiftRight_zero]
  exact lowBytes_eq_self (by omega) (of_decide_eq_true hs)

/-- The field of a row whose signature is one operand of 8, 16 or 32 bits. -/
theorem field_setWidth {d : Descriptor} {n : Nat} (x : BitVec n) (hl : d.length ≤ 5)
    (hk : d.mode.fieldBytes d.w = d.length - 1) (hn : n = 8 * (d.length - 1)) :
    d.field (x.setWidth 32) = x.setWidth 32 :=
  field_eq_signature hl hk (decide_eq_true (setWidth_long_lt x hn))

theorem field_long {d : Descriptor} (x : Long) (hl : d.length = 5) (hk : d.mode.fieldBytes d.w = 4) :
    d.field x = x := by
  simpa using field_setWidth x hl.le (by omega) (by omega)

/-! ### The statements -/

/-- Settles O16: each of the three handlers on the state with the pc at the next instruction. -/
theorem softwareTrapsAndStop : Obligations.SoftwareTrapsAndStop := by
  unfold Obligations.SoftwareTrapsAndStop
  intro s
  have hbrk : handlerOf rowBrk 0 (s.advanced rowBrk) = .done (s.entered .brk (s.nextPc 1)) :=
    congrArg _ (enter_advanced s rowBrk .brk)
  have hcop : handlerOf rowCop 0 (s.advanced rowCop) = .done (s.entered .cop (s.nextPc 1)) :=
    congrArg _ (enter_advanced s rowCop .cop)
  exact ⟨runHandler_commits hbrk, runHandler_commits hcop, rfl⟩

/-- Settles O17: a return pops the pc, a jump takes its operand, which is the row's whole signature. -/
theorem returnsAndJumps : Obligations.ReturnsAndJumps := by
  unfold Obligations.ReturnsAndJumps
  intro s
  have hrti : handlerOf rowRti 0 (s.advanced rowRti) = .done s.popped := congrArg _ (popPc_advanced s rowRti)
  have hret : handlerOf rowRet 0 (s.advanced rowRet) = .done s.popped := congrArg _ (popPc_advanced s rowRet)
  refine ⟨runHandler_commits hrti, runHandler_commits hret, fun a => ?_, fun a => ?_, fun a => ?_⟩
  · have hfield : rowJmps.field (a.setWidth 32) = a.setWidth 32 := field_setWidth a (by decide) rfl rfl
    have hjmps : handlerOf rowJmps (a.setWidth 32) (s.advanced rowJmps) =
        .done ((s.advanced rowJmps).jumpShort ((rowJmps.field (a.setWidth 32)).setWidth 16)) := rfl
    rw [hfield, BitVec.setWidth_setWidth_of_le a (by decide), BitVec.setWidth_eq] at hjmps
    exact runHandler_commits hjmps
  · have hfield : rowJmpl.field a = a := field_long a rfl rfl
    have hjmpl : handlerOf rowJmpl a (s.advanced rowJmpl) = .done ((s.advanced rowJmpl).jumpLong (rowJmpl.field a)) :=
      rfl
    rw [hfield] at hjmpl
    exact runHandler_commits hjmpl
  · have hfield : rowJmpv.field a = a := field_long a rfl rfl
    have hjmpv : handlerOf rowJmpv a (s.advanced rowJmpv) = .done ((s.advanced rowJmpv).jumpVector (rowJmpv.field a)) :=
      rfl
    rw [hfield, jumpVector_advanced, jumpVector_eq] at hjmpv
    exact runHandler_commits hjmpv

/-- Settles O18: CALL's operand is the row's whole signature. -/
theorem callPushesTheReturnAddress : Obligations.CallPushesTheReturnAddress := by
  unfold Obligations.CallPushesTheReturnAddress
  intro s a
  have hfield : rowCall.field a = a := field_long a rfl rfl
  have hcall : handlerOf rowCall a (s.advanced rowCall) = _ := handleCall_advanced rowCall a s
  rw [hfield] at hcall
  exact runHandler_commits hcall

/-- Settles O30: the handler of each kind on the state with the pc at the next instruction. -/
theorem configuredControl : Obligations.ConfiguredControl := by
  unfold Obligations.ConfiguredControl
  intro d sig s hf done n
  refine ⟨fun hk => ?_, fun hk => ?_, fun hk => ?_, fun hk => ?_, fun hk => ?_, fun hk => ?_, fun hk => ?_,
    fun hk => ?_⟩
  · exact exec_configured_commits hf (by simp only [handlerOf, hk, handleBrk, enter_advanced])
  · exact exec_configured_commits hf (by simp only [handlerOf, hk, handleCop, enter_advanced])
  · exact exec_configured_commits hf (by simp only [handlerOf, hk]; rfl)
  · exact exec_configured_commits hf (by
      rcases hk with hk | hk <;> simp only [handlerOf, hk, handleRti, handleRet, popPc_advanced])
  · exact exec_configured_commits hf (by simp only [handlerOf, hk]; rfl)
  · exact exec_configured_commits hf (by simp only [handlerOf, hk]; rfl)
  · exact exec_configured_commits hf (by simp only [handlerOf, hk, handleJmpv, jumpVector_advanced])
  · exact exec_configured_commits hf (by simp only [handlerOf, hk, handleCall_advanced])

end Sys2Proof.Machine
end

section
/-! SUPPORT. LOAD and STORE (spec/43_handlers.md R213, R214), by the rows of the table and by any well-formed row: when
an operand can be read and written (spec/41_addressing.md R156, R157), and what a committed move leaves. -/

namespace Sys2Proof

/-! ### What WF5 and WF6 say of the mode -/

/-- A LOAD or STORE has an operand, and so has a stack row without an action register. -/
theorem mode_ne_none {d : Descriptor} (h : d.failure = none)
    (hk : d.kind = .load ∨ d.kind = .store ∨ (d.kind = .push ∨ d.kind = .pull) ∧ d.actionReg = none) :
    d.mode ≠ .none := by
  obtain ⟨-, -, -, -, h5, -⟩ := (failure_eq_none_iff d).1 h
  rcases hk with hk | hk | ⟨hk | hk, hr⟩ <;> simp_all [Descriptor.wf5]

/-- An immediate is not a destination. -/
theorem mode_ne_immediate {d : Descriptor} (h : d.failure = none) (hk : d.kind = .store ∨ d.kind = .pull) :
    d.mode ≠ .immediate := by
  obtain ⟨-, -, -, -, -, h6⟩ := (failure_eq_none_iff d).1 h
  rcases hk with hk | hk <;> simpa [Descriptor.wf6, hk] using h6

end Sys2Proof

namespace Sys2Proof.Machine

/-! ### Registers are read as before -/

@[simp] theorem didRead_reg (s : State) (x : Long) (n : Nat) (r : Reg) : (s.didRead x n).reg r = s.reg r := by
  cases r <;> rfl

@[simp] theorem setPc_reg (s : State) (t : Long) (r : Reg) : (s.setPc t).reg r = s.reg r := by
  cases r <;> rfl

/-- A read on the way through an instruction, with the bytes of the start state. -/
theorem didRead_setPc (s : State) (t x : Long) (n : Nat) :
    (s.setPc t).didRead x n = { s.setPc t with bus := s.bus ++ [s.readRecord x n] } := by
  rw [State.didRead, setPc_peek]
  rfl

theorem readOp_reg {s t : State} {op : Operand} {w : Nat} {v : Long} (e : s.readOp op w = .ok (v, t)) (r : Reg) :
    t.reg r = s.reg r := by
  rcases readOp_state e with rfl | ⟨ea, rfl⟩
  · rfl
  · exact didRead_reg s ea w r

/-! ### When an operand can be read and written -/

/-- The operand a mode resolves to: none, a register, an immediate, or memory. -/
theorem operand_cases (s : State) (d : Descriptor) (sig : Long) :
    (d.mode = .none ∧ s.operand d sig = .noOperand) ∨
      (∃ q, d.mode = .regDirect q ∧ s.operand d sig = .reg q) ∨
      (d.mode = .immediate ∧ ∃ v, s.operand d sig = .imm v) ∨
      ((∀ q, d.mode ≠ .regDirect q) ∧ d.mode ≠ .immediate ∧ ∃ ea, s.operand d sig = .mem ea) := by
  unfold State.operand
  cases d.mode <;> simp

theorem operand_of_regDirect {d : Descriptor} {q : Reg} (h : d.mode = .regDirect q) (s : State) (sig : Long) :
    s.operand d sig = .reg q := by
  simp only [State.operand, h]

section
variable {d : Descriptor} {n : Nat}

/-- A register operand that has the width, an immediate and memory can be read. -/
theorem readOp_of_fits (hm : d.mode ≠ .none) (hn : n = 1 ∨ n = 2 ∨ n = 4)
    (hq : ∀ q, d.mode = .regDirect q → 8 * n ≤ q.width) (s t : State) (sig : Long) :
    ∃ v m, t.readOp (s.operand d sig) n = .ok (v, m) := by
  rcases operand_cases s d sig with ⟨h, -⟩ | ⟨q, h, ho⟩ | ⟨-, v, ho⟩ | ⟨-, -, ea, ho⟩
  · exact absurd h hm
  · exact ⟨_, _, by rw [ho, State.readOp, xr_of_fits ⟨hn, hq q h⟩]⟩
  · exact ⟨_, _, by rw [ho, State.readOp]⟩
  · exact ⟨_, _, by rw [ho, State.readOp, if_pos ((validCount_iff n).2 hn)]⟩

/-- A register operand that has the width and memory can be written. -/
theorem writeOp_of_fits (hm : d.mode ≠ .none) (hi : d.mode ≠ .immediate) (hn : n = 1 ∨ n = 2 ∨ n = 4)
    (hq : ∀ q, d.mode = .regDirect q → 8 * n ≤ q.width) (s t : State) (sig v : Long) :
    ∃ m, t.writeOp (s.operand d sig) n v = .ok m := by
  rcases operand_cases s d sig with ⟨h, -⟩ | ⟨q, h, ho⟩ | ⟨h, -⟩ | ⟨-, -, ea, ho⟩
  · exact absurd h hm
  · exact ⟨_, by rw [ho, State.writeOp, xw_of_fits ⟨hn, hq q h⟩]⟩
  · exact absurd h hi
  · exact ⟨_, by rw [ho, State.writeOp, if_pos ((validCount_iff n).2 hn)]⟩

theorem readOp_of_narrow (h : ∃ q, d.mode = .regDirect q ∧ q.width < 8 * n) (s t : State) (sig : Long) :
    t.readOp (s.operand d sig) n = .error n := by
  obtain ⟨q, hm, hq⟩ := h
  rw [operand_of_regDirect hm, State.readOp, xr_of_misfit (.inr hq)]

theorem writeOp_of_narrow (h : ∃ q, d.mode = .regDirect q ∧ q.width < 8 * n) (s t : State) (sig v : Long) :
    t.writeOp (s.operand d sig) n v = .error n := by
  obtain ⟨q, hm, hq⟩ := h
  rw [operand_of_regDirect hm, State.writeOp, xw_of_misfit (.inr hq)]

end

/-! ### What a move leaves -/

/-- N and Z of a value are those of its low bytes. -/
theorem withNZ_lowBytes {w : Nat} (hw : w = 1 ∨ w = 2 ∨ w = 4) (r : SR) (v : Long) :
    r.withNZ (lowBytes w v) w = r.withNZ v w := by
  have hn : (lowBytes w v).getLsbD (8 * w - 1) = v.getLsbD (8 * w - 1) := by
    rcases hw with rfl | rfl | rfl <;> simp [lowBytes]
  rw [SR.withNZ, SR.withNZ, hn, lowBytes_lowBytes (by omega)]

section
variable {d : Descriptor} {sig : Long} {s : State} {r : Reg} (hr : d.actionReg = some r)
include hr

/-- LOAD of an operand `v` that leaves `p` in its register. -/
theorem handlerOf_load {v p : Long} {m : State} (hk : d.kind = .load) (hb : r.badWidth d.w = false)
    (hv : s.readOp (s.operand d sig) d.w = .ok (v, m)) (hp : patchLow d.w (s.reg r) v = p) :
    handlerOf d sig s =
      let x := (m.applyPending (s.pending d)).setReg r p
      .done { x with sr := if r = .sr then x.sr else x.sr.withNZ v d.w } := by
  simp only [handlerOf, hk, handleLoad, hr]
  rw [loadInto_done hb hv, readOp_reg hv, hp]
  split <;> rfl

/-- STORE of an operand that can be written. -/
theorem handlerOf_store {x : State} (hk : d.kind = .store) (hb : r.badWidth d.w = false)
    (hx : (s.applyPending (s.pending d)).storeOp (s.operand d sig) d.w (lowBytes d.w (s.reg r)) = .ok x) :
    handlerOf d sig s = .done { x with sr := if r = .sr then x.sr else x.sr.withNZ (s.reg r) d.w } := by
  simp only [handlerOf, hk, handleStore, hr]
  rw [storeFrom_done hb hx, ← withNZ_lowBytes ((badWidth_false_iff _ _).1 hb).1]
  split <;> rfl

end

/-! ### The table's rows -/

theorem disp8_field {d : Descriptor} (x : Byte) (hl : d.length = 2) (hk : d.mode.fieldBytes d.w = 1) :
    disp8Of (d.field (x.setWidth 32)) = x.signExtend 32 := by
  rw [field_setWidth x (by omega) (by omega) (by omega), disp8Of, BitVec.setWidth_setWidth_of_le x (by decide),
    BitVec.setWidth_eq]

theorem disp16_field {d : Descriptor} (x : Half) (hl : d.length = 3) (hk : d.mode.fieldBytes d.w = 2) :
    disp16Of (d.field (x.setWidth 32)) = x.signExtend 32 := by
  rw [field_setWidth x (by omega) (by omega) (by omega), disp16Of, BitVec.setWidth_setWidth_of_le x (by decide),
    BitVec.setWidth_eq]

theorem patchLow_four (old v : Long) : patchLow 4 old v = v := by
  simp [patchLow]

theorem lowBytes_setWidth {n k : Nat} (x : BitVec n) (hn : n = 8 * k) (hk : k ≤ 4) :
    lowBytes k (x.setWidth 32) = x.setWidth 32 :=
  lowBytes_eq_self hk (setWidth_long_lt x hn)

/-- A row whose signature is its immediate. -/
theorem lowBytes_field {d : Descriptor} {n : Nat} (x : BitVec n) (hl : d.length - 1 = d.w) (hm : d.mode = .immediate)
    (hn : n = 8 * d.w) (hw : d.w ≤ 4) : lowBytes d.w (d.field (x.setWidth 32)) = x.setWidth 32 := by
  rw [field_setWidth x (by omega) (by rw [hm, hl]; rfl) (by omega), lowBytes_setWidth x hn hw]

theorem patchLow_byte (old : Long) (b : Byte) :
    patchLow 1 old (b.setWidth 32) = (old &&& 0xFFFFFF00) ||| b.setWidth 32 := by
  rw [patchLow, lowBytes_setWidth b rfl (by decide)]
  rfl

/-- N and Z of a byte operand. -/
theorem withNZ_byte (r : SR) (b : Byte) :
    r.withNZ (b.setWidth 32) 1 = { r with n := b.getLsbD 7, z := b == 0 } := by
  have hz : (b.setWidth 32 == 0) = (b == 0) := by
    rw [Bool.eq_iff_iff, beq_iff_eq, beq_iff_eq]
    constructor <;> intro h <;> bv_omega
  rw [SR.withNZ, lowBytes_setWidth b rfl (by decide), hz]
  simp

section
variable {d : Descriptor} {sig ea : Long} {s : State} {i : Fin 8} (hr : d.actionReg = some (.d i))
  (hb : (Reg.d i).badWidth d.w = false) (hop : (s.advanced d).operand d sig = .mem ea) (hc : d.cycles = 4)
include hr hb hop hc

/-- A LOAD from memory into Di, with no update pending. -/
theorem load_from_memory (hk : d.kind = .load) (hp : (s.advanced d).pending d = none) :
    runHandler d (handlerOf d sig) s = .next (s.loaded d.length i d.w ea) := by
  have hw : validCount d.w = true := (validCount_iff _).2 ((badWidth_false_iff _ _).1 hb).1
  have hv : (s.advanced d).readOp ((s.advanced d).operand d sig) d.w =
      .ok (s.peek ea d.w, { s.advanced d with bus := s.bus ++ [s.readRecord ea d.w] }) := by
    rw [hop, State.readOp, if_pos hw, setPc_peek, didRead_setPc]
  rw [runHandler_commits (handlerOf_load hr hk hb hv rfl), hp, hc, if_neg nofun]
  rfl

/-- A STORE of Di to memory, with `as` the address registers after the pending update. -/
theorem store_to_memory {as : Vector Long 7} (hk : d.kind = .store)
    (hp : (s.advanced d).applyPending ((s.advanced d).pending d) = { s.advanced d with a := as }) :
    runHandler d (handlerOf d sig) s =
      .next { s.stored d.length d.w ea (lowBytes d.w s.d[i]) with a := as } := by
  have hw := (badWidth_false_iff _ _).1 hb |>.1
  have hx : ((s.advanced d).applyPending ((s.advanced d).pending d)).storeOp ((s.advanced d).operand d sig) d.w
      (lowBytes d.w (s.reg (.d i))) =
        .ok ({ s.advanced d with a := as }.memWrite ea d.w (lowBytes d.w (s.reg (.d i)))) := by
    rw [hop, hp, storeOp_eq (op := .mem ea) nofun, State.writeOp, if_pos ((validCount_iff _).2 hw)]
  rw [runHandler_commits (handlerOf_store hr hk hb hx), hc, if_neg nofun, ← withNZ_lowBytes hw]
  rfl

end

/-- A LOAD of an immediate, with `p` what it leaves in its register. -/
theorem load_immediate {d : Descriptor} {sig v p : Long} {s : State} {r : Reg} (hr : d.actionReg = some r)
    (hb : r.badWidth d.w = false) (hk : d.kind = .load) (hm : d.mode = .immediate) (hv : lowBytes d.w (d.field sig) = v)
    (hp : patchLow d.w (s.reg r) v = p) :
    runHandler d (handlerOf d sig) s =
      let x := (s.advanced d).setReg r p
      .next
        { x with
          sr := if r = .sr then x.sr else x.sr.withNZ v d.w
          cycles := s.cycles + BitVec.ofNat 64 d.cycles
          stepResult := true } := by
  have hop : (s.advanced d).readOp ((s.advanced d).operand d sig) d.w = .ok (v, s.advanced d) := by
    simp only [State.operand, hm, State.readOp, hv]
  have hnone : (s.advanced d).pending d = none := by simp only [State.pending, hm]
  rw [runHandler_commits (handlerOf_load hr hk hb hop hp), hnone]
  rfl

/-- Settles O21: each row's value and what its register keeps of it. -/
theorem loadsWithoutMemory : Obligations.LoadsWithoutMemory := by
  unfold Obligations.LoadsWithoutMemory
  intro s
  refine ⟨fun v => ⟨?_, ?_, ?_⟩, fun b => ?_, ?_, fun h => ?_⟩
  · exact load_immediate (d := rowLoadLImmD0) rfl rfl rfl rfl ((lowBytes_four _).trans (field_long v rfl rfl))
      (patchLow_four _ v)
  · exact load_immediate (d := rowLoadLImmA0) rfl rfl rfl rfl ((lowBytes_four _).trans (field_long v rfl rfl))
      (patchLow_four _ v)
  · exact load_immediate (d := rowLoadLImmA1) rfl rfl rfl rfl ((lowBytes_four _).trans (field_long v rfl rfl))
      (patchLow_four _ v)
  · rw [← withNZ_byte]
    exact load_immediate (d := rowLoadBImmD1) rfl rfl rfl rfl (lowBytes_field b rfl rfl rfl (by decide))
      (patchLow_byte s.d[1] b)
  · have hread : (s.advanced rowLoadLD0D6).readOp ((s.advanced rowLoadLD0D6).operand rowLoadLD0D6 0) 4 =
        .ok (s.d[0], s.advanced rowLoadLD0D6) :=
      congrArg (fun v => Except.ok (v, s.advanced rowLoadLD0D6)) (lowBytes_four s.d[0])
    exact runHandler_commits (handlerOf_load rfl rfl rfl hread (patchLow_four _ _))
  · have hsr : (patchLow 2 (s.reg .sr) (h.setWidth 32)).setWidth 16 = h := by
      rw [patchLow_two_setWidth, BitVec.setWidth_setWidth_of_le h (by decide), BitVec.setWidth_eq]
    have hload := load_immediate (d := rowLoadWImmSr) (s := s) rfl rfl rfl rfl
      (lowBytes_field h rfl rfl rfl (by decide)) rfl
    rw [← congrArg SR.unpack hsr]
    exact hload

/-- Settles O22: each row's effective address; only (A0)+ leaves an update. -/
theorem loadsFromMemory : Obligations.LoadsFromMemory := by
  unfold Obligations.LoadsFromMemory
  intro s
  refine ⟨?_, fun a => ?_, fun b => ?_, fun h => ?_, ?_, fun b => ?_, fun b => ?_⟩
  · exact runHandler_commits (d := rowLoadWPostIncA0D0) (sig := 0) (handlerOf_load rfl rfl rfl rfl rfl)
  · exact load_from_memory (d := rowLoadLAbsLongD2) rfl rfl (congrArg _ (field_long a rfl rfl)) rfl rfl rfl
  · exact load_from_memory (d := rowLoadLIndexedA0D1D3) rfl rfl (by
      rw [← disp8_field (d := rowLoadLIndexedA0D1D3) b rfl rfl]; rfl) rfl rfl rfl
  · exact load_from_memory (d := rowLoadWPcDisp16D4) rfl rfl (by
      rw [← disp16_field (d := rowLoadWPcDisp16D4) h rfl rfl]; rfl) rfl rfl rfl
  · exact load_from_memory (d := rowLoadBIndirectA0D5) (sig := 0) rfl rfl rfl rfl rfl rfl
  · exact load_from_memory (d := rowLoadWDisp8A0D7) rfl rfl (by
      rw [← disp8_field (d := rowLoadWDisp8A0D7) b rfl rfl]; rfl) rfl rfl rfl
  · exact load_from_memory (d := rowLoadLPcIndexedD1D2) rfl rfl (by
      rw [← disp8_field (d := rowLoadLPcIndexedD1D2) b rfl rfl]; rfl) rfl rfl rfl

/-- Settles O23: each row's effective address; only -(A1) leaves an update. -/
theorem storesToMemory : Obligations.StoresToMemory := by
  unfold Obligations.StoresToMemory
  intro s
  refine ⟨?_, fun h => ?_, fun h => ?_⟩
  · have hstore : exec .storeLD0PreDecA1 s =
        .next { s.stored 1 4 (s.a[1] - 4) (lowBytes 4 s.d[0]) with a := s.a.set 1 (s.a[1] - 4) } :=
      store_to_memory (d := rowStoreLD0PreDecA1) (sig := 0) rfl rfl rfl rfl rfl rfl
    rwa [lowBytes_four] at hstore
  · exact store_to_memory (d := rowStoreWD0Disp16A0) (as := s.a) rfl rfl (by
      rw [← disp16_field (d := rowStoreWD0Disp16A0) h rfl rfl]; rfl) rfl rfl rfl
  · exact store_to_memory (d := rowStoreBD0AbsShort) (as := s.a) rfl rfl (by
      rw [← disp16_field (d := rowStoreBD0AbsShort) h rfl rfl]; rfl) rfl rfl rfl

/-! ### Any well-formed row -/

/-- A LOAD whose register or operand is too narrow raises the width, wherever it is noticed. -/
theorem handlerOf_load_raised {d : Descriptor} {r : Reg} (hr : d.actionReg = some r) (hk : d.kind = .load)
    (h : r.width < 8 * d.w ∨ ∃ q, d.mode = .regDirect q ∧ q.width < 8 * d.w) (sig : Long) (s : State) :
    ∃ n u, handlerOf d sig s = .raised n u := by
  simp only [handlerOf, hk, handleLoad, hr, loadInto]
  rcases h with hw | hq
  · cases hv : s.readOp (s.operand d sig) d.w with
    | error n => exact ⟨_, _, rfl⟩
    | ok p => exact ⟨d.w, p.2, by simp only [State.xwCommit, (badWidth_iff r d.w).2 (.inr hw), if_true]⟩
  · exact ⟨d.w, s, by rw [readOp_of_narrow hq]⟩

/-- A STORE whose register or operand is too narrow raises the width before its write. -/
theorem handlerOf_store_raised {d : Descriptor} {r : Reg} (hr : d.actionReg = some r) (hk : d.kind = .store)
    (h : r.width < 8 * d.w ∨ ∃ q, d.mode = .regDirect q ∧ q.width < 8 * d.w) (sig : Long) (s : State) :
    handlerOf d sig s = .raised d.w s := by
  simp only [handlerOf, hk, handleStore, hr, storeFrom]
  rcases xr_cases s r d.w with ⟨-, hx⟩ | ⟨hb, hx⟩
  · rw [hx]
  · have hq := h.resolve_left (Nat.not_lt.2 ((badWidth_false_iff r d.w).1 hb).2)
    rw [hx]
    simp only [State.storeOp, writeOp_of_narrow hq]

/-- Settles O26: the operand can be read and the register written exactly when both have the width. -/
theorem configuredLoad : Obligations.ConfiguredLoad := by
  unfold Obligations.ConfiguredLoad
  intro d sig s r hf hk hr n
  refine ⟨fun hw hq => ?_, fun h => ?_⟩
  · obtain ⟨-, -, -, hn⟩ := d.bounds hf
    obtain ⟨v, m, hv⟩ := readOp_of_fits (mode_ne_none hf (.inl hk)) hn hq n n sig
    have hb : r.badWidth d.w = false := (badWidth_false_iff r d.w).2 ⟨hn, hw⟩
    have hreg : n.reg r = s.reg r := setPc_reg s _ r
    exact ⟨v, m, _, hv, rfl,
      exec_configured_commits hf (handlerOf_load hr hk hb hv (congrArg (patchLow d.w · v) hreg))⟩
  · obtain ⟨k, u, hu⟩ := handlerOf_load_raised hr hk h sig (s.advanced d)
    exact ⟨u.bus, exec_configured_raises hf hu⟩

/-- A STORE writes its operand, or, to RegDirect(SR), leaves the state as the open constant says (log 21). -/
theorem storeOp_of_writeOp {d : Descriptor} {sig v : Long} {s x : State} {w : Nat}
    (hx : (s.applyPending (s.pending d)).writeOp (s.operand d sig) w v = .ok x) :
    (s.applyPending (s.pending d)).storeOp (s.operand d sig) w v =
      .ok (if d.mode = .regDirect .sr ∧ Config.storeWritesSr = false then s else x) := by
  have hop : s.operand d sig = .reg .sr ↔ d.mode = .regDirect .sr := by
    rcases operand_cases s d sig with ⟨h, ho⟩ | ⟨q, h, ho⟩ | ⟨h, v, ho⟩ | ⟨h, -, ea, ho⟩ <;> simp [h, ho]
  by_cases hm : d.mode = .regDirect .sr
  · have hp : s.applyPending (s.pending d) = s := by simp only [State.pending, hm]; rfl
    rw [hp] at hx ⊢
    simp only [State.storeOp, hx, hop]
  · simp only [State.storeOp, hx, hop, hm, false_and, if_false]

/-- Settles O27: the operand is written and the register read exactly when both have the width. -/
theorem configuredStore : Obligations.ConfiguredStore := by
  unfold Obligations.ConfiguredStore
  intro d sig s r hf hk hr n
  refine ⟨fun hw hq => ?_,
    fun h => exec_configured_raises (u := s.advanced d) hf (handlerOf_store_raised hr hk h sig _)⟩
  obtain ⟨-, -, -, hn⟩ := d.bounds hf
  have hm := mode_ne_none hf (.inr (.inl hk))
  obtain ⟨x, hx⟩ := writeOp_of_fits hm (mode_ne_immediate hf (.inl hk)) hn hq n (n.applyPending (n.pending d)) sig
    (lowBytes d.w (s.reg r))
  have hb : r.badWidth d.w = false := (badWidth_false_iff r d.w).2 ⟨hn, hw⟩
  have hreg : n.reg r = s.reg r := setPc_reg s _ r
  have hstore := handlerOf_store hr hk hb (hreg ▸ storeOp_of_writeOp hx)
  rw [hreg] at hstore
  exact ⟨x, _, hx, rfl, exec_configured_commits hf hstore⟩

end Sys2Proof.Machine
end

section
/-! SUPPORT. PUSH and PULL (spec/43_handlers.md R205, R206), by the rows of the table and by any well-formed row: of an
action register, and of a mode's operand. -/

namespace Sys2Proof.Machine

/-! ### A register write among writes of pc, memory and bus -/

theorem setReg_withPc (s : State) (r : Reg) (v p : Long) :
    { s with pc := p }.setReg r v = { s.setReg r v with pc := p } := by
  simpa only [setReg_mem, setReg_bus] using setReg_update s r v p s.mem s.bus

theorem setReg_withMemBus (s : State) (r : Reg) (v : Long) (m : List Host.Cell) (b : List BusAccess) :
    { s with mem := m, bus := b }.setReg r v = { s.setReg r v with mem := m, bus := b } := by
  simpa only [setReg_pc] using setReg_update s r v s.pc m b

theorem setReg_withBus (s : State) (r : Reg) (v : Long) (b : List BusAccess) :
    { s with bus := b }.setReg r v = { s.setReg r v with bus := b } := by
  simpa only [setReg_mem] using setReg_withMemBus s r v s.mem b

theorem reg_withBus (s : State) (b : List BusAccess) (r : Reg) : { s with bus := b }.reg r = s.reg r := by
  cases r <;> rfl

/-- What a committed instruction does to a state in which a register has been written. -/
theorem setReg_retired (s : State) (r : Reg) (v : Long) (len cyc : Nat) :
    (s.setReg r v).retired len cyc =
      { { s with pc := s.nextPc len }.setReg r v with
        cycles := s.cycles + BitVec.ofNat 64 cyc
        stepResult := true } := by
  simp only [State.retired, State.nextPc, setReg_withPc, setReg_cfg, setReg_pc, setReg_cycles]

/-- The record of a read on the way through an instruction, of the start state's bytes. -/
theorem setPc_readRecord (s : State) (t x : Long) (n : Nat) : (s.setPc t).readRecord x n = s.readRecord x n := by
  rw [State.readRecord, setPc_peek]
  rfl

/-- A7 is no data register. -/
theorem setReg_d_setReg_a7 (s : State) (v x : Long) (i : Fin 8) :
    (s.setReg .a7 v).setReg (.d i) x = { s.setReg .a7 v with d := s.d.set i x } := by
  simp only [State.setReg]
  split <;> rfl

/-! ### An action register -/

section
variable {d : Descriptor} {r : Reg} (hr : d.actionReg = some r)
include hr

section
variable (hfit : (d.count = 1 ∨ d.count = 2 ∨ d.count = 4) ∧ 8 * d.count ≤ r.width)
include hfit

/-- PUSH of a register that has the width (spec/43_handlers.md R205). -/
theorem handlerOf_push_reg (hk : d.kind = .push) (sig : Long) (s : State) :
    let sp := s.reg .a7 - BitVec.ofNat 32 d.count
    handlerOf d sig s =
      .done
        { s.setReg .a7 sp with
          mem := memPutBE s.mem sp d.count (lowBytes d.count (s.reg r))
          bus := s.bus ++ [s.writeRecord sp d.count (s.reg r)] } := by
  intro sp
  have hn : validCount d.count = true := (validCount_iff _).2 hfit.1
  simp only [handlerOf, hk, handlePush, hn, pushSource, stackPending, hr, xr_of_fits hfit, State.applyPending,
    State.memWrite, lowBytes_lowBytes (n := d.count) (by omega), Bool.true_eq_false, if_false]
  exact congrArg _ (setReg_withMemBus s .a7 sp _ _)

/-- PULL into a register that has the width (spec/43_handlers.md R206): A7 is moved before the register is written. -/
theorem handlerOf_pull_reg (hk : d.kind = .pull) (sig : Long) (s : State) :
    let p := s.setReg .a7 (s.reg .a7 + BitVec.ofNat 32 d.count)
    handlerOf d sig s =
      .done
        { p.setReg r (patchLow d.count (p.reg r) (s.peek (s.reg .a7) d.count)) with
          bus := s.bus ++ [s.readRecord (s.reg .a7) d.count] } := by
  intro p
  have hn : validCount d.count = true := (validCount_iff _).2 hfit.1
  have hpop : (s.didRead (s.reg .a7) d.count).setReg .a7 (s.reg .a7 + BitVec.ofNat 32 d.count) =
      { p with bus := s.bus ++ [s.readRecord (s.reg .a7) d.count] } := setReg_withBus s _ _ _
  simp only [handlerOf, hk, handlePull, hn, hr, (badWidth_false_iff r d.count).2 hfit, hpop, xw_of_fits hfit,
    reg_withBus, setReg_withBus, Bool.true_eq_false, Bool.false_eq_true, if_false]

end

/-- A count that is none, or that the register does not have, is raised before anything is read or written. -/
theorem handlerOf_stack_reg_raised (hk : d.kind = .push ∨ d.kind = .pull)
    (h : ¬((d.count = 1 ∨ d.count = 2 ∨ d.count = 4) ∧ 8 * d.count ≤ r.width)) (sig : Long) (s : State) :
    handlerOf d sig s = .raised d.count s := by
  have hb : r.badWidth d.count = true := by
    rw [← Bool.not_eq_false, badWidth_false_iff]
    exact h
  have hx : s.xr r d.count = .error d.count := if_pos hb
  rcases hk with hk | hk
  · simp only [handlerOf, hk, handlePush, pushSource, hr, hx, ite_self]
  · simp only [handlerOf, hk, handlePull, hr, hb, if_true, ite_self]

end

/-! ### The statements about an action register -/

/-- Settles O28: the register can be read and written exactly when it has the count. -/
theorem configuredPushAndPull : Obligations.ConfiguredPushAndPull := by
  unfold Obligations.ConfiguredPushAndPull
  intro d sig s r hf hr n c
  refine ⟨fun hfit => ⟨fun hk => ?_, fun hk => ?_⟩, fun h hk => ?_⟩
  · have hpush := exec_configured_commits (s := s) hf (handlerOf_push_reg hr hfit hk sig (s.advanced d))
    simp only [setPc_reg] at hpush
    exact hpush
  · have hpull := exec_configured_commits (s := s) hf (handlerOf_pull_reg hr hfit hk sig (s.advanced d))
    simp only [setPc_reg, setPc_peek, setPc_readRecord] at hpull
    exact hpull
  · exact exec_configured_raises (u := s.advanced d) hf (handlerOf_stack_reg_raised hr hk h sig _)

/-- Settles O19: a push writes the low bytes of D0, or of the packed SR, below the stack. -/
theorem pushWritesBelowTheStack : Obligations.PushWritesBelowTheStack := by
  unfold Obligations.PushWritesBelowTheStack
  intro s
  refine ⟨?_, ?_⟩
  · rw [setReg_retired, ← memPutBE_lowBytes s.mem _ (n := 4) (by decide) s.d[0]]
    exact runHandler_commits (handlerOf_push_reg (d := rowPushLD0) rfl (by decide) rfl 0 (s.advanced rowPushLD0))
  · rw [setReg_retired, ← memPutBE_lowBytes s.mem _ (n := 2) (by decide) (s.sr.pack.setWidth 32)]
    exact runHandler_commits (handlerOf_push_reg (d := rowPushWSr) rfl (by decide) rfl 0 (s.advanced rowPushWSr))

/-- Settles O20: the pull moves A7 and writes all of D5, or SR through Unpack. -/
theorem pullReadsTheStack : Obligations.PullReadsTheStack := by
  unfold Obligations.PullReadsTheStack
  intro s
  refine ⟨?_, ?_⟩
  · let p := (s.advanced rowPullLD5).setReg .a7 (s.reg .a7 + 4)
    have hpull : handlerOf rowPullLD5 0 (s.advanced rowPullLD5) =
        .done
          { p.setReg (.d 5) (patchLow 4 (p.reg (.d 5)) (s.peek (s.reg .a7) 4)) with
            bus := s.bus ++ [s.readRecord (s.reg .a7) 4] } :=
      handlerOf_pull_reg (d := rowPullLD5) rfl (by decide) rfl 0 _
    rw [patchLow_four, setReg_d_setReg_a7] at hpull
    rw [setReg_retired]
    exact runHandler_commits hpull
  · let p := (s.advanced rowPullWSr).setReg .a7 (s.reg .a7 + 2)
    have hpull : handlerOf rowPullWSr 0 (s.advanced rowPullWSr) =
        .done
          { p with
            sr := SR.unpack ((patchLow 2 (p.reg .sr) (s.peek (s.reg .a7) 2)).setWidth 16)
            bus := s.bus ++ [s.readRecord (s.reg .a7) 2] } :=
      handlerOf_pull_reg (d := rowPullWSr) (r := .sr) rfl (by decide) rfl 0 _
    rw [patchLow_two_setWidth] at hpull
    rw [setReg_retired]
    exact runHandler_commits hpull

/-! ### A mode's operand -/

section
variable {d : Descriptor} {sig : Long} {s : State} (hr : d.actionReg = none)
  (hn : d.count = 1 ∨ d.count = 2 ∨ d.count = 4)
include hr hn

/-- PUSH of an operand that can be read (spec/43_handlers.md R205, 41_addressing.md R158). -/
theorem handlerOf_push_mode {v : Long} {m : State} (hk : d.kind = .push)
    (hv : s.readOp (s.operand d sig) d.count = .ok (v, m)) :
    let sp := s.reg .a7 - BitVec.ofNat 32 d.count
    handlerOf d sig s = .done (((m.applyPending (s.pending d)).memWrite sp d.count v).setReg .a7 sp) := by
  simp only [handlerOf, hk, handlePush, (validCount_iff _).2 hn, pushSource, stackPending, hr, hv, Bool.true_eq_false,
    if_false]

/-- PULL into an operand that can be written, resolved with the popped A7 in sight (spec/43_handlers.md R206; log
22). -/
theorem handlerOf_pull_mode {x : State} (hk : d.kind = .pull)
    (hx :
      let top := s.reg .a7 + BitVec.ofNat 32 d.count
      let p := (s.didRead (s.reg .a7) d.count).setReg .a7 top
      (((s.didRead (s.reg .a7) d.count).applyPending (p.pending d)).setReg .a7 top).writeOp (p.operand d sig) d.count
        (s.peek (s.reg .a7) d.count) = .ok x) :
    handlerOf d sig s = .done x := by
  simp only at hx
  simp only [handlerOf, hk, handlePull, (validCount_iff _).2 hn, hr, hx, Bool.true_eq_false, if_false]

end

/-- A count that is none, or that the operand register does not have, is raised. -/
theorem handlerOf_stack_mode_raised {d : Descriptor} (hr : d.actionReg = none) (hk : d.kind = .push ∨ d.kind = .pull)
    (h : ¬(d.count = 1 ∨ d.count = 2 ∨ d.count = 4) ∨ ∃ q, d.mode = .regDirect q ∧ q.width < 8 * d.count)
    (sig : Long) (s : State) : ∃ n u, handlerOf d sig s = .raised n u := by
  cases hn : validCount d.count with
  | false =>
    refine ⟨d.count, s, ?_⟩
    rcases hk with hk | hk <;> simp only [handlerOf, hk, handlePush, handlePull, hn, if_true]
  | true =>
    have hq := h.resolve_left (not_not.2 ((validCount_iff _).1 hn))
    rcases hk with hk | hk
    · exact ⟨d.count, s, by simp only [handlerOf, hk, handlePush, hn, pushSource, hr, readOp_of_narrow hq,
        Bool.true_eq_false, if_false]⟩
    · exact ⟨d.count, s.didRead (s.reg .a7) d.count, by simp only [handlerOf, hk, handlePull, hn, hr,
        writeOp_of_narrow hq, Bool.true_eq_false, if_false]⟩

/-- Settles O29: the operand can be read and written exactly when a register operand has the count. -/
theorem configuredPushAndPullByMode : Obligations.ConfiguredPushAndPullByMode := by
  unfold Obligations.ConfiguredPushAndPullByMode
  intro d sig s hf hr n a7 c
  refine ⟨fun hn hq => ⟨fun hk => ?_, fun hk => ?_⟩, fun h hk => ?_⟩
  · obtain ⟨v, m, hv⟩ := readOp_of_fits (mode_ne_none hf (.inr (.inr ⟨.inl hk, hr⟩))) hn hq n n sig
    exact ⟨v, m, hv, exec_configured_commits hf (handlerOf_push_mode hr hn hk hv)⟩
  · have hm := mode_ne_none hf (.inr (.inr ⟨.inr hk, hr⟩))
    obtain ⟨x, hx⟩ := writeOp_of_fits hm (mode_ne_immediate hf (.inr hk)) hn hq
      ((n.didRead a7 d.count).setReg .a7 (a7 + c)) _ sig (s.peek a7 d.count)
    exact ⟨x, hx, exec_configured_commits hf (handlerOf_pull_mode hr hn hk (setPc_peek s _ a7 d.count ▸ hx))⟩
  · obtain ⟨k, u, hu⟩ := handlerOf_stack_mode_raised hr hk h sig (s.advanced d)
    exact ⟨u.bus, exec_configured_raises hf hu⟩

end Sys2Proof.Machine
end

section
/-! SUPPORT. Handlers of kind OTHER (spec/43_handlers.md R215): what each operation does, how a run goes on, when it
cannot raise an error, and what an instruction of the kind commits. -/

namespace Sys2Proof.Machine

/-! ### The operations -/

theorem OtherRun.writeReg_eq (r : OtherRun) (q : Reg) (n : Nat) (v : Long) :
    r.writeReg q n v =
      if q.badWidth n = true then .error n else .ok (r.wrote q (r.state.setReg q (patchLow n (r.state.reg q) v))) := by
  unfold OtherRun.writeReg State.xw
  cases q.badWidth n <;> rfl

/-- Each operation has the effect of the primitive it names. -/
theorem OtherRun.primitiveEffects (d : Descriptor) (sig : Long) (r : OtherRun) : r.PrimitiveEffects d sig := by
  obtain ⟨s, vals, operand, overlay, written⟩ := r
  refine ⟨fun _ => rfl, rfl, rfl, fun _ _ => rfl, fun q n => ?_, fun q n v => OtherRun.writeReg_eq _ q n _,
    fun _ => rfl, fun v n => ?_, rfl, fun _ => rfl, rfl, ?_, fun n => ?_, fun n v => ?_, fun _ _ => rfl,
    fun _ _ _ => rfl, fun _ => rfl, fun _ => rfl, fun _ => rfl, ?_, ?_, rfl, fun _ => rfl⟩
  · simp only [OtherRun.op, State.xr]
    cases q.badWidth n <;> rfl
  · simp only [OtherRun.op, State.setNZ, SR.setNZ]
    cases validCount n <;> rfl
  · cases operand <;> rfl
  · cases operand with
    | reg q =>
      simp only [OtherRun.op, State.readOp, State.xr]
      cases q.badWidth n <;> rfl
    | mem ea =>
      simp only [OtherRun.op, State.readOp]
      cases validCount n <;> rfl
    | imm x => rfl
    | noOperand => rfl
  · cases operand with
    | reg q => exact OtherRun.writeReg_eq _ q n _
    | mem ea =>
      simp only [OtherRun.op, State.writeOp]
      cases validCount n <;> rfl
    | imm x => rfl
    | noOperand => rfl
  · simp only [OtherRun.op, softTrap, enter_eq_entered]
    rfl
  · simp only [OtherRun.op, softTrap, enter_eq_entered]
    rfl

/-! ### The run -/

/-- Only `skipUnless` makes the run skip. -/
theorem OtherRun.skips_eq_zero (r : OtherRun) {o : OtherOp} (h : ∀ c k, o ≠ .skipUnless c k) : r.skips o = 0 := by
  cases o with
  | skipUnless c k => exact absurd rfl (h c k)
  | _ => rfl

section
variable {d : Descriptor} {sig : Long} {r t : OtherRun} {o : OtherOp} {os : OtherProgram}

theorem OtherRun.run_cons_ok (h : r.op d sig o = .ok t) :
    OtherRun.run d sig 0 r (o :: os) = OtherRun.run d sig (r.skips o) t os := by
  simp only [OtherRun.run, h]

theorem OtherRun.run_cons_error {n : Nat} (h : r.op d sig o = .error n) :
    OtherRun.run d sig 0 r (o :: os) = .raised n r.state := by
  simp only [OtherRun.run, h]

end

/-- The run performs its operations in order, and commits at its end. -/
theorem OtherRun.runInOrder (d : Descriptor) (sig : Long) (r : OtherRun) : r.RunInOrder d sig := by
  refine ⟨fun o os ho => ⟨fun t h => ?_, fun n h => OtherRun.run_cons_error h⟩,
    fun c k os => OtherRun.run_cons_ok rfl, fun k o os => rfl, fun k => rfl⟩
  rw [OtherRun.run_cons_ok h, r.skips_eq_zero ho]

/-! ### A run that cannot raise an error -/

/-- The operand is one that the mode resolved to. -/
def OtherRun.Resolved (d : Descriptor) (sig : Long) (r : OtherRun) : Prop := ∃ s : State, r.operand = s.operand d sig

/-- Only `resolve` changes the operand. -/
theorem OtherRun.op_operand {d : Descriptor} {sig : Long} {r t : OtherRun} {o : OtherOp} (e : r.op d sig o = .ok t)
    (h : o ≠ .resolve) : t.operand = r.operand := by
  have write {q : Reg} {n : Nat} {v : Long} (e : r.writeReg q n v = .ok t) : t.operand = r.operand := by
    rw [OtherRun.writeReg_eq] at e
    split at e <;> cases e
    rfl
  cases o <;> simp only [OtherRun.op] at e
  case resolve => exact absurd rfl h
  case writeReg q n v => exact write e
  case writeOp n v =>
    split at e
    · exact write e
    · split at e <;> cases e
      rfl
    · cases e
    · cases e
  case readReg | setNZ | ea | readOp | memRead | memWrite => split at e <;> cases e <;> rfl
  case fail => cases e
  all_goals
    cases e
    rfl

theorem OtherRun.resolved_op {d : Descriptor} {sig : Long} {r t : OtherRun} {o : OtherOp} (e : r.op d sig o = .ok t)
    (h : r.Resolved d sig) : t.Resolved d sig := by
  by_cases ho : o = .resolve
  · subst ho
    cases e
    exact ⟨r.state, rfl⟩
  · exact h.imp fun s hs => (OtherRun.op_operand e ho).trans hs

section
variable {d : Descriptor} {n : Nat}

/-- Where `readOp` cannot raise, the operand of the mode can be read. -/
theorem readOp_of_not_mayRaise (hm : (OtherOp.readOp n).mayRaise d = false) (s t : State) (sig : Long) :
    ∃ v m, t.readOp (s.operand d sig) n = .ok (v, m) := by
  rcases operand_cases s d sig with ⟨h, ho⟩ | ⟨q, h, ho⟩ | ⟨h, x, ho⟩ | ⟨hreg, himm, ea, ho⟩
  · simp [OtherOp.mayRaise, h] at hm
  · simp only [OtherOp.mayRaise, h] at hm
    exact ⟨_, _, by simp only [ho, State.readOp, State.xr, hm, Bool.false_eq_true, if_false]; rfl⟩
  · exact ⟨_, _, by rw [ho, State.readOp]⟩
  · have hn : validCount n = true := by
      simp only [OtherOp.mayRaise] at hm
      split at hm <;> simp_all
    exact ⟨_, _, by rw [ho, State.readOp, if_pos hn]⟩

/-- Where `writeOp` cannot raise, the mode's operand is a register that has the width, or memory. -/
theorem operand_of_not_mayRaise {v : Nat} (hm : (OtherOp.writeOp n v).mayRaise d = false) (s : State) (sig : Long) :
    (∃ q, s.operand d sig = .reg q ∧ q.badWidth n = false) ∨
      ∃ ea, s.operand d sig = .mem ea ∧ validCount n = true := by
  rcases operand_cases s d sig with ⟨h, ho⟩ | ⟨q, h, ho⟩ | ⟨h, x, ho⟩ | ⟨hreg, himm, ea, ho⟩
  · simp [OtherOp.mayRaise, h] at hm
  · simp only [OtherOp.mayRaise, h] at hm
    exact .inl ⟨q, ho, hm⟩
  · simp [OtherOp.mayRaise, h] at hm
  · refine .inr ⟨ea, ho, ?_⟩
    simp only [OtherOp.mayRaise] at hm
    split at hm <;> simp_all

/-- Where `ea` cannot raise, the mode's operand is an immediate or memory. -/
theorem operand_of_ea_not_mayRaise (hm : OtherOp.ea.mayRaise d = false) (s : State) (sig : Long) :
    (∃ x, s.operand d sig = .imm x) ∨ ∃ ea, s.operand d sig = .mem ea := by
  rcases operand_cases s d sig with ⟨h, ho⟩ | ⟨q, h, ho⟩ | ⟨h, x, ho⟩ | ⟨hreg, himm, ea, ho⟩
  · simp [OtherOp.mayRaise, h] at hm
  · simp [OtherOp.mayRaise, h] at hm
  · exact .inl ⟨x, ho⟩
  · exact .inr ⟨ea, ho⟩

end

/-- An operation that cannot raise, on an operand that was resolved if it uses one, goes on. -/
theorem OtherRun.op_ok {d : Descriptor} {sig : Long} {r : OtherRun} {o : OtherOp} (hm : o.mayRaise d = false)
    (hu : r.Resolved d sig ∨ o.usesOperand = false) : ∃ t, r.op d sig o = .ok t := by
  obtain ⟨-, -, -, -, readReg, -, -, setNZ, -⟩ := r.primitiveEffects d sig
  have write {q : Reg} {n : Nat} (hq : q.badWidth n = false) (v : Long) : ∃ t, r.writeReg q n v = .ok t :=
    ⟨_, (r.writeReg_eq q n v).trans (if_neg (Bool.eq_false_iff.1 hq))⟩
  cases o with
  | writeReg q n v => exact write hm (r.val v)
  | readReg q n => exact ⟨_, (readReg q n).trans (if_neg (Bool.eq_false_iff.1 hm))⟩
  | setNZ v n => exact ⟨_, (setNZ v n).trans (if_pos (Bool.not_eq_eq_eq_not.1 hm))⟩
  | memRead a n | memWrite a n v => exact ⟨_, if_pos (Bool.not_eq_eq_eq_not.1 hm)⟩
  | ea =>
    obtain ⟨s, hs⟩ := hu.resolve_right nofun
    rcases operand_of_ea_not_mayRaise hm s sig with ⟨x, ho⟩ | ⟨x, ho⟩ <;>
      exact ⟨r.push x, by simp only [OtherRun.op, hs, ho]⟩
  | readOp n =>
    obtain ⟨s, hs⟩ := hu.resolve_right nofun
    obtain ⟨v, m, hv⟩ := readOp_of_not_mayRaise hm s r.state sig
    exact ⟨(r.at m).push v, by simp only [OtherRun.op, hs, hv]⟩
  | writeOp n v =>
    obtain ⟨s, hs⟩ := hu.resolve_right nofun
    rcases operand_of_not_mayRaise hm s sig with ⟨q, ho, hq⟩ | ⟨ea, ho, hn⟩
    · simp only [OtherRun.op, hs, ho]
      exact write hq (r.val v)
    · exact ⟨r.at (r.state.memWrite ea n (r.val v)), by simp only [OtherRun.op, hs, ho, State.writeOp, if_pos hn]⟩
  | fail n => cases hm
  | _ => exact ⟨_, rfl⟩

/-- A whole run. -/
theorem OtherRun.run_done {d : Descriptor} {sig : Long} {p : OtherProgram} (hm : ∀ o ∈ p, o.mayRaise d = false)
    (k : Nat) {r : OtherRun} (hu : r.Resolved d sig ∨ ∀ o ∈ p, o.usesOperand = false) :
    ∃ t, OtherRun.run d sig k r p = .done t := by
  induction p generalizing k r with
  | nil => exact ⟨_, rfl⟩
  | cons o os ih =>
    rw [List.forall_mem_cons] at hm hu
    cases k with
    | succ k =>
      refine ih hm.2 k (hu.imp (fun h => ?_) And.right)
      split <;> exact h
    | zero =>
      obtain ⟨t, ht⟩ := OtherRun.op_ok hm.1 (hu.imp_right And.left)
      rw [OtherRun.run_cons_ok ht]
      exact ih hm.2 _ (hu.imp (OtherRun.resolved_op ht) And.right)

/-! ### The instruction -/

section
variable {d : Descriptor} {sig : Long} {s t : State} {op : Byte} {prog : OtherProgram} (hf : d.failure = none)
include hf

theorem exec_other : exec (.other d sig) s = runHandler d (handleOther d sig) s := by
  simp only [exec, execOther, hf]

theorem exec_other_undefined (h : ∀ p ∈ s.cfg.others, p.1 ≠ d.opcode) :
    exec (.other d sig) s = .refused (.otherUndefined d.opcode) := by
  have hfind : s.cfg.others.find? (fun p => p.1 == d.opcode) = none := by simpa using h
  rw [exec_other hf]
  refine runHandler_refused ?_
  simp only [handleOther, setPc_cfg, hfind]

variable (hprog : s.cfg.others.find? (fun p => p.1 == d.opcode) = some (op, prog))
include hprog

/-- A run that is done commits. -/
theorem exec_other_done (h : OtherRun.run d sig 0 (OtherRun.start (s.advanced d)) prog = .done t) :
    exec (.other d sig) s =
      .next { t with cycles := s.cycles + BitVec.ofNat 64 d.cycles, stepResult := true } := by
  have hc : t.cycles = (s.advanced d).cycles := trapFrame_cycles.otherRun h
  have hdone : handleOther d sig (s.advanced d) = .done t := by simp only [handleOther, setPc_cfg, hprog, h]
  rw [exec_other hf, runHandler_done hdone, State.charge, hc]
  rfl

/-- A run that reports an error has the error alone as its effect, and its reads. -/
theorem exec_other_raised {k : Nat} (h : OtherRun.run d sig 0 (OtherRun.start (s.advanced d)) prog = .raised k t) :
    exec (.other d sig) s =
      .next
        { s.failed true
            { code := .invalidOperandWidth, instrAddr := some s.pc, faultAddr := none, opcode := some d.opcode } with
          bus := readsOnly s.bus t.bus } := by
  have hraised : handleOther d sig (s.advanced d) = .raised k { s.advanced d with bus := readsOnly s.bus t.bus } := by
    simp only [handleOther, setPc_cfg, hprog, h]
    rfl
  rw [exec_other hf, runHandler_raised hraised]
  rfl

end

/-- A pending (An)+ is committed after a handler that does not write An, and lost to one that does. -/
theorem otherRun_postInc {d : Descriptor} {i : Fin 7} (hm : d.mode = .postInc (.an i)) {w : Nat}
    (hw : w = 1 ∨ w = 2 ∨ w = 4) (sig v : Long) (s : State) :
    OtherRun.run d sig 0 (OtherRun.start s) [.resolve] = .done (s.setReg (.a i) (s.a[i] + BitVec.ofNat 32 d.w)) ∧
      OtherRun.run d sig 0 (OtherRun.start s) [.const v, .resolve, .writeReg (.a i) w 0] =
        .done (s.setReg (.a i) (patchLow w s.a[i] v)) ∧
      OtherRun.run d sig 0 (OtherRun.start s) [.const v, .writeReg (.a i) w 0, .resolve] =
        .done (s.setReg (.a i) (patchLow w s.a[i] v)) := by
  have hb : (Reg.a i).badWidth w = false := (badWidth_false_iff _ w).2 ⟨hw, by simp only [Reg.width]; omega⟩
  have hp : ∀ t : State, t.pending d = some { reg := .an i, value := t.a[i] + BitVec.ofNat 32 d.w } := fun t => by
    simp only [State.pending, hm]
    rfl
  refine ⟨?_, ?_, ?_⟩ <;>
    simp [OtherRun.run, OtherRun.op, OtherRun.skips, OtherRun.start, OtherRun.push, OtherRun.val, OtherRun.wrote,
      OtherRun.writeReg_eq, OtherRun.commit, hp, hb, State.physical, AddrReg.toReg, State.reg]

/-- Settles O31: the operations and the run are as stated, an instruction commits what its run leaves, and a run raises
an error only at an operation that may. -/
theorem otherHandlers : Obligations.OtherHandlers := by
  unfold Obligations.OtherHandlers
  intro d sig s hf
  refine ⟨exec_other_undefined hf, fun r => ⟨r.primitiveEffects d sig, r.runInOrder d sig⟩, ?_⟩
  intro op prog hprog n ended
  refine ⟨?_, fun hm hu => ?_, fun i w v hmode hw => ⟨?_, ?_⟩⟩
  · cases hrun : ended with
    | done t =>
      have hcontrol : t.control = s.control := trapFrame_control.otherRun hrun
      have hcfg : t.control.cfg = s.control.cfg := congrArg State.cfg hcontrol
      exact .inl ⟨t, rfl, hcfg, exec_other_done hf hprog hrun⟩
    | raised k t =>
      refine .inr ⟨k, t, _, rfl, fun b hb => ?_, exec_other_raised hf hprog hrun⟩
      simpa using (List.mem_filter.1 hb).2
    | refused x => exact absurd hrun (otherRun_ne_refused d sig 0 _ prog x)
  · obtain ⟨t, ht⟩ : ∃ t, ended = .done t := by
      rcases hu with hhead | hnone
      · obtain ⟨os, rfl⟩ := List.head?_eq_some_iff.1 hhead
        exact OtherRun.run_done (fun o ho => hm o (List.mem_cons_of_mem _ ho)) 0 (.inl ⟨n, rfl⟩)
      · exact OtherRun.run_done hm 0 (.inr hnone)
    exact ⟨_, exec_other_done hf hprog ht, rfl, rfl⟩
  · rintro rfl
    obtain ⟨hrun, -⟩ := otherRun_postInc hmode hw sig v n
    exact ⟨_, exec_other_done hf hprog hrun, reg_setReg_same (r := .a i) nofun _ _⟩
  · obtain ⟨-, hafter, hbefore⟩ := otherRun_postInc hmode hw sig v n
    rintro (rfl | rfl)
    · exact ⟨_, exec_other_done hf hprog hafter, reg_setReg_same (r := .a i) nofun _ _⟩
    · exact ⟨_, exec_other_done hf hprog hbefore, reg_setReg_same (r := .a i) nofun _ _⟩

end Sys2Proof.Machine
end

section
/-! SUPPORT. The frames of spec/43_handlers.md R202-R214: which registers and which bytes of memory an instruction of
the table may change. The registers a handler may write are read off its descriptor. -/

namespace Sys2Proof

/-! ### The registers a handler may write -/

/-- The register a mode leaves an update for (spec/41_addressing.md R146, R147). -/
def Mode.updated : Mode → List Reg
  | .postInc r | .preDec r => [r.toReg]
  | .none | .regDirect _ | .indirect _ | .disp8 _ | .disp16 _ | .indexed _ _ _ | .pcDisp16 | .pcIndexed _ _ | .absShort
  | .absLong | .immediate => []

/-- The register a mode names as its operand (spec/41_addressing.md R144). -/
def Mode.direct : Mode → List Reg
  | .regDirect r => [r]
  | .none | .indirect _ | .postInc _ | .preDec _ | .disp8 _ | .disp16 _ | .indexed _ _ _ | .pcDisp16 | .pcIndexed _ _
  | .absShort | .absLong | .immediate => []

/-- The registers that the handler of a descriptor may write, by kind, SR's N and Z apart (spec/43_handlers.md
R202-R214); of the PULLs, those into an action register. -/
def Descriptor.writes (d : Descriptor) : List Reg :=
  match d.kind with
  | .load => d.actionReg.toList ++ d.mode.updated
  | .store => d.mode.direct ++ d.mode.updated
  | .push => .a7 :: d.mode.updated
  | .pull => .a7 :: d.actionReg.toList
  | .call | .rti | .ret => [.a7]
  | .brk | .cop => [.ssp]
  | .unimpl | .stop | .jmps | .jmpl | .jmpv | .other => []

end Sys2Proof

namespace Sys2Proof.Machine

/-! ### Which stored register a name stands for -/

theorem physical_eq_self {q : Reg} (hq : q ≠ .a7) (s : State) : s.physical q = q := by
  cases q
  case a7 => exact absurd rfl hq
  all_goals rfl

theorem physical_eq_usp (s : State) (r : Reg) : s.physical r = .usp ↔ r = .usp ∨ r = .a7 ∧ s.sr.s = false := by
  cases r
  case a7 => cases h : s.sr.s <;> simp [State.physical, h]
  all_goals simp [State.physical]

theorem physical_eq_ssp (s : State) (r : Reg) : s.physical r = .ssp ↔ r = .ssp ∨ r = .a7 ∧ s.sr.s = true := by
  cases r
  case a7 => cases h : s.sr.s <;> simp [State.physical, h]
  all_goals simp [State.physical]

/-- Only the stack pointers have a second name. -/
theorem physical_eq_of_ne {q : Reg} (hu : q ≠ .usp) (hs : q ≠ .ssp) {s : State} {r : Reg} (h : s.physical r = q) :
    r = q := by
  cases r
  case a7 => cases hsr : s.sr.s <;> simp_all [State.physical]
  all_goals exact h

/-! ### What an operation leaves of a stored register -/

theorem reg_congr {s t : State} (hd : t.d = s.d) (ha : t.a = s.a) (husp : t.usp = s.usp) (hssp : t.ssp = s.ssp)
    (hsr : t.sr = s.sr) (q : Reg) : t.reg q = s.reg q := by
  cases q <;> simp only [State.reg, hd, ha, husp, hssp, hsr]

section
variable {q : Reg} (hq : q ≠ .sr) (hq7 : q ≠ .a7)
include hq hq7

theorem reg_withSr (s : State) (r : SR) : { s with sr := r }.reg q = s.reg q := by
  cases q
  case sr => exact absurd rfl hq
  case a7 => exact absurd rfl hq7
  all_goals rfl

/-- A write of any register, SR among them, leaves a stored register that the name does not stand for. -/
theorem reg_setReg_other {r : Reg} {s t : State} (hsr : t.sr = s.sr) (h : s.physical r ≠ q) (v : Long) :
    (t.setReg r v).reg q = t.reg q := by
  by_cases hr : r = .sr
  · subst hr
    exact reg_withSr hq hq7 t _
  · refine reg_setReg_of_physical_ne hr ?_ v
    rw [physical_eq_self hq7, physical_of_sr_eq hsr]
    exact h.symm

theorem reg_applyPending {s t : State} {d : Descriptor} (hsr : t.sr = s.sr)
    (h : ∀ r ∈ d.mode.updated, s.physical r ≠ q) (u : State) : (t.applyPending (u.pending d)).reg q = t.reg q := by
  unfold State.pending
  cases hm : d.mode with
  | postInc r | preDec r =>
    rw [hm] at h
    exact reg_setReg_other hq hq7 hsr (h _ (List.mem_singleton_self _)) _
  | _ => rfl

theorem reg_storeOp {s t x : State} {d : Descriptor} {sig v : Long} {n : Nat} (hsr : t.sr = s.sr)
    (h : ∀ r ∈ d.mode.direct, s.physical r ≠ q) (e : t.storeOp (s.operand d sig) n v = .ok x) : x.reg q = t.reg q := by
  rcases storeOp_state e with ⟨-, rfl⟩ | hw
  · rfl
  · rcases writeOp_state hw with ⟨r, y, hop, rfl⟩ | ⟨ea, -, rfl⟩
    · have hm : d.mode = .regDirect r := by
        rcases operand_cases s d sig with ⟨-, ho⟩ | ⟨p, hp, ho⟩ | ⟨-, p, ho⟩ | ⟨-, -, p, ho⟩ <;> simp_all
      rw [hm] at h
      exact reg_setReg_other hq hq7 hsr (h r (List.mem_singleton_self r)) y
    · exact reg_congr rfl rfl rfl rfl rfl q

/-! ### What a handler leaves of a register that it does not write -/

section
variable {d : Descriptor} {sig : Long} {s u : State}

theorem reg_handlePush (h : ∀ r ∈ .a7 :: d.mode.updated, s.physical r ≠ q) (e : handlePush d sig s = .done u) :
    u.reg q = s.reg q := by
  obtain ⟨h7, hm⟩ := List.forall_mem_cons.1 h
  obtain ⟨t, v, hp, rfl⟩ := handlePush_done e
  have ht : t.sr = s.sr ∧ t.reg q = s.reg q := by
    rcases pushSource_state hp with rfl | ⟨ea, rfl⟩
    · exact ⟨rfl, rfl⟩
    · exact ⟨rfl, didRead_reg s ea d.count q⟩
  have hpending : (t.applyPending (stackPending d s)).reg q = t.reg q := by
    unfold stackPending
    split
    · rfl
    · exact reg_applyPending hq hq7 ht.1 hm s
  rw [reg_setReg_other hq hq7 (by rw [memWrite_sr, applyPending_sr, ht.1]) h7, ← ht.2, ← hpending]
  exact reg_congr rfl rfl rfl rfl rfl q

theorem reg_handlePull {r : Reg} (hr : d.actionReg = some r) (h7 : s.physical .a7 ≠ q) (h : s.physical r ≠ q)
    (e : handlePull d sig s = .done u) : u.reg q = s.reg q := by
  obtain ⟨x, rfl⟩ := handlePull_done_reg hr e
  rw [reg_setReg_other hq hq7 (s := s) (by simp) h, reg_setReg_other hq hq7 (didRead_sr s _ _) h7, didRead_reg]

theorem reg_handleLoad (h : ∀ r ∈ d.actionReg.toList ++ d.mode.updated, s.physical r ≠ q)
    (e : handleLoad d sig s = .done u) : u.reg q = s.reg q := by
  obtain ⟨hr, hm⟩ := List.forall_mem_append.1 h
  obtain ⟨r, v, m, x, hreg, hv, rfl, rfl⟩ := handleLoad_done e
  have hdest : s.physical r ≠ q := hr r (by simp [hreg])
  rw [← readOp_reg hv q, ← reg_applyPending hq hq7 (readOp_sr hv) hm s,
    ← reg_setReg_other hq hq7 ((applyPending_sr _ _).trans (readOp_sr hv)) hdest]
  split
  · rfl
  · exact reg_withSr hq hq7 _ _

theorem reg_handleStore (h : ∀ r ∈ d.mode.direct ++ d.mode.updated, s.physical r ≠ q)
    (e : handleStore d sig s = .done u) : u.reg q = s.reg q := by
  obtain ⟨hdirect, hm⟩ := List.forall_mem_append.1 h
  obtain ⟨r, v, x, -, hx, rfl⟩ := handleStore_done e
  rw [← reg_applyPending hq hq7 rfl hm s, ← reg_storeOp hq hq7 (applyPending_sr _ _) hdirect hx]
  split
  · rfl
  · exact reg_withSr hq hq7 _ _

theorem reg_popPc (h : s.physical .a7 ≠ q) : s.popPc.reg q = s.reg q := by
  rw [State.popPc, State.jumpLong, setPc_reg, reg_setReg_other hq hq7 (didRead_sr s _ _) h, didRead_reg]

theorem reg_handleCall (h : s.physical .a7 ≠ q) (e : handleCall d sig s = .done u) : u.reg q = s.reg q := by
  cases e
  rw [State.jumpLong, setPc_reg, reg_setReg_other hq hq7 (memWrite_sr s _ _ _) h]
  exact reg_congr rfl rfl rfl rfl rfl q

theorem reg_enter (h : q ≠ .ssp) (t : Trap) : (s.enter t).reg q = s.reg q := by
  cases q
  case sr => exact absurd rfl hq
  case a7 => exact absurd rfl hq7
  case ssp => exact absurd rfl h
  all_goals rfl

/-- A handler leaves every stored register that none of the names it writes stands for. -/
theorem reg_handlerOf (hother : d.kind ≠ .other) (hpull : d.kind = .pull → ∃ r, d.actionReg = some r)
    (h : ∀ r ∈ d.writes, s.physical r ≠ q) (e : handlerOf d sig s = .done u) : u.reg q = s.reg q := by
  unfold handlerOf at e
  unfold Descriptor.writes at h
  cases hk : d.kind <;> simp only [hk] at e h hpull
  case push => exact reg_handlePush hq hq7 h e
  case pull =>
    obtain ⟨r, hr⟩ := hpull trivial
    obtain ⟨h7, hdest⟩ := List.forall_mem_cons.1 h
    exact reg_handlePull hq hq7 hr h7 (hdest r (by simp [hr])) e
  case load => exact reg_handleLoad hq hq7 h e
  case store => exact reg_handleStore hq hq7 h e
  case call => exact reg_handleCall hq hq7 (h _ (List.mem_singleton_self _)) e
  case other => exact absurd hk hother
  all_goals cases e
  case rti | ret => exact reg_popPc hq hq7 (h _ (List.mem_singleton_self _))
  case brk | cop => exact reg_enter hq hq7 (h _ (List.mem_singleton_self _)).symm _
  all_goals exact reg_congr rfl rfl rfl rfl rfl q

end
end

/-! ### The table -/

/-- An instruction of the table that is not UNIMPL has a row of the table. -/
theorem descriptor_mem_testRom {i : Instr} (hT : OfTable i) (hk : i.descriptor.kind ≠ .unimpl) :
    i.descriptor ∈ testRom := by
  obtain ⟨r, hr, hi⟩ := tableRow_descriptor hT hk
  have hmem := (tableRow_some hr).1
  rw [← hi, instr_descriptor hmem]
  exact List.mem_map_of_mem hmem

/-- What an instruction of the table can answer: the start state with an error, or what its row's handler leaves. -/
theorem exec_ofTable_next {i : Instr} {s t : State} (hT : OfTable i) (e : exec i s = .next t) :
    (∃ b r, t = s.raiseError b r) ∨
      i.descriptor ∈ testRom ∧ ∃ sig u, handlerOf i.descriptor sig (s.advanced i.descriptor) = .done u ∧
        t = { u.charge i.descriptor.cycles with stepResult := true } := by
  rcases exec_next e with ⟨b, r, -, -, rfl⟩ | ⟨u, hu, rfl⟩
  · exact .inl ⟨b, r, rfl⟩
  · obtain ⟨-, sig, hdone⟩ := handlerLeaves_ofTable hT hu
    have hk : i.descriptor.kind ≠ .unimpl := fun hk => by simp [handlerOf, hk] at hdone
    exact .inr ⟨descriptor_mem_testRom hT hk, sig, u, hdone, rfl⟩

theorem testRom_kind_ne_other : ∀ d ∈ testRom, d.kind ≠ .other := by decide

theorem testRom_pull_actionReg : ∀ d ∈ testRom, d.kind = .pull → ∃ r, d.actionReg = some r := by
  simp only [← Option.isSome_iff_exists]
  decide

/-- An instruction of the table leaves every stored register that none of the names its row writes stands for. -/
theorem exec_reg {i : Instr} {s t : State} {q : Reg} (hT : OfTable i) (e : exec i s = .next t) (hq : q ≠ .sr)
    (hq7 : q ≠ .a7) (h : i.descriptor ∈ testRom → ∀ r ∈ i.descriptor.writes, s.physical r ≠ q) : t.reg q = s.reg q := by
  rcases exec_ofTable_next hT e with ⟨b, r, rfl⟩ | ⟨hmem, sig, u, hu, rfl⟩
  · exact reg_congr rfl rfl rfl rfl rfl q
  · have hreg := reg_handlerOf (s := s.advanced i.descriptor) hq hq7 (testRom_kind_ne_other _ hmem)
      (testRom_pull_actionReg _ hmem) (h hmem) hu
    rw [setPc_reg] at hreg
    rw [← hreg]
    exact reg_congr rfl rfl rfl rfl rfl q

/-! ### The rows' registers -/

theorem testRom_writes_d : ∀ d ∈ testRom, ∀ k : Fin 8, Reg.d k ∈ d.writes →
    d.actionReg = some (.d k) ∧ d.kind ≠ .store ∧ d.kind ≠ .push := by decide

theorem testRom_writes_a : ∀ d ∈ testRom, ∀ k : Fin 7, Reg.a k ∈ d.writes →
    d.actionReg = some (.a k) ∨ d.mode = .postInc (.an k) ∨ d.mode = .preDec (.an k) := by decide

theorem testRom_writes_usp : ∀ d ∈ testRom, Reg.usp ∉ d.writes := by decide

theorem testRom_writes_ssp : ∀ d ∈ testRom, Reg.ssp ∈ d.writes → d.kind ∈ [Kind.brk, .cop] := by decide

theorem testRom_writes_a7 : ∀ d ∈ testRom, Reg.a7 ∈ d.writes → d.kind ∈ [Kind.push, .pull, .rti, .call, .ret] := by
  decide

/-- USP changes only as the active stack pointer of a stack instruction. -/
theorem exec_usp {i : Instr} {s t : State} (hT : OfTable i) (e : exec i s = .next t)
    (h : i.descriptor.kind ∈ [Kind.push, .pull, .rti, .call, .ret] → s.sr.s = true) : t.usp = s.usp := by
  refine exec_reg (q := .usp) hT e nofun nofun fun hmem r hr hp => ?_
  rcases (physical_eq_usp s r).1 hp with rfl | ⟨rfl, hs⟩
  · exact testRom_writes_usp _ hmem hr
  · exact Bool.eq_false_iff.1 hs (h (testRom_writes_a7 _ hmem hr))

/-- SSP changes only as the active stack pointer of a stack instruction, and in a trap entry. -/
theorem exec_ssp {i : Instr} {s t : State} (hT : OfTable i) (e : exec i s = .next t)
    (htrap : i.descriptor.kind ∉ [Kind.brk, .cop])
    (h : i.descriptor.kind ∈ [Kind.push, .pull, .rti, .call, .ret] → s.sr.s = false) : t.ssp = s.ssp := by
  refine exec_reg (q := .ssp) hT e nofun nofun fun hmem r hr hp => ?_
  rcases (physical_eq_ssp s r).1 hp with rfl | ⟨rfl, hs⟩
  · exact htrap (testRom_writes_ssp _ hmem hr)
  · exact Bool.eq_false_iff.1 (h (testRom_writes_a7 _ hmem hr)) hs

/-- Settles O33: no name that the row writes stands for the register. -/
theorem registerFrame : Obligations.RegisterFrame := by
  unfold Obligations.RegisterFrame
  intro i s t e hT
  refine ⟨fun k h => ?_, fun k hreg hinc hdec => ?_, fun hk => ?_, ?_, fun hk => ?_⟩
  · refine exec_reg (q := .d k) hT e nofun nofun fun hmem r hr hp => ?_
    obtain rfl := physical_eq_of_ne (q := .d k) nofun nofun hp
    obtain ⟨hact, hstore, hpush⟩ := testRom_writes_d _ hmem k hr
    exact h.elim (fun hne => hne hact) (fun hk => hk.elim hstore hpush)
  · refine exec_reg (q := .a k) hT e nofun nofun fun hmem r hr hp => ?_
    obtain rfl := physical_eq_of_ne (q := .a k) nofun nofun hp
    rcases testRom_writes_a _ hmem k hr with hact | hm | hm
    · exact hreg hact
    · exact hinc hm
    · exact hdec hm
  · have hstack : i.descriptor.kind ∉ [Kind.push, .pull, .rti, .call, .ret] := fun h =>
      hk (List.mem_append_left [Kind.brk, .cop] h)
    have htrap : i.descriptor.kind ∉ [Kind.brk, .cop] := fun h =>
      hk (List.mem_append_right [Kind.push, .pull, .rti, .call, .ret] h)
    exact ⟨exec_usp hT e fun h => absurd h hstack, exec_ssp hT e htrap fun h => absurd h hstack⟩
  · rintro (rfl | rfl) <;> exact exec_usp hT e fun h => absurd h (by decide)
  · have htrap : i.descriptor.kind ∉ [Kind.brk, .cop] := by
      revert hk
      cases i.descriptor.kind <;> decide
    exact ⟨fun hs => exec_usp hT e fun _ => hs, fun hs => exec_ssp hT e htrap fun _ => hs⟩

/-! ### Memory -/

/-- A write of `n` bytes leaves every byte outside them. -/
theorem readByte_of_put {s t : State} {a v b : Long} {n : Nat} (hm : t.mem = memPutBE s.mem a n v)
    (h : ∀ i < n, b ≠ a + BitVec.ofNat 32 i) : t.readByte b = s.readByte b := by
  rw [readByte_of_mem (t := s.memWrite a n v) hm, readByte_memWrite_other s a n v h]

theorem readOp_mem {s t : State} {op : Operand} {w : Nat} {v : Long} (e : s.readOp op w = .ok (v, t)) :
    t.mem = s.mem := by
  rcases readOp_state e with rfl | ⟨ea, rfl⟩ <;> rfl

theorem applyPending_mem (s : State) (u : Option Pending) : (s.applyPending u).mem = s.mem := by
  cases u with
  | none => rfl
  | some p => exact setReg_mem s _ _

theorem handleLoad_mem {d : Descriptor} {sig : Long} {s u : State} (e : handleLoad d sig s = .done u) :
    u.mem = s.mem := by
  obtain ⟨r, v, m, x, -, hv, rfl, rfl⟩ := handleLoad_done e
  have hx : ((m.applyPending (s.pending d)).setReg r (patchLow d.w (m.reg r) v)).mem = s.mem := by
    rw [setReg_mem, applyPending_mem, readOp_mem hv]
  split <;> exact hx

/-- The handlers that write no memory; of the PULLs, those into an action register. -/
theorem handlerOf_mem {d : Descriptor} {sig : Long} {s u : State} (e : handlerOf d sig s = .done u)
    (hk : d.kind ∈ [Kind.stop, .rti, .jmps, .jmpl, .jmpv, .ret, .load, .pull, .unimpl])
    (hpull : d.kind = .pull → ∃ r, d.actionReg = some r) : u.mem = s.mem := by
  unfold handlerOf at e
  cases h : d.kind <;> simp only [h] at e hk hpull
  case load => exact handleLoad_mem e
  case pull =>
    obtain ⟨r, hr⟩ := hpull trivial
    obtain ⟨x, rfl⟩ := handlePull_done_reg hr e
    rw [setReg_mem, setReg_mem, didRead_mem]
  case push | store | call | brk | cop | other => simp at hk
  all_goals cases e
  case rti | ret => simp [State.popPc, State.jumpLong]
  all_goals rfl

/-- Settles O32: the stores, pushes and traps by the states they leave, and the other kinds by their handlers. -/
theorem memoryFrame : Obligations.MemoryFrame := by
  unfold Obligations.MemoryFrame
  intro s t b
  obtain ⟨hstoreL, hstoreW, hstoreB⟩ := storesToMemory s
  obtain ⟨hpushL, hpushW⟩ := pushWritesBelowTheStack s
  obtain ⟨hbrk, hcop, -⟩ := softwareTrapsAndStop s
  refine ⟨fun e h => ?_, fun x e h => ?_, fun x e h => ?_, ?_, fun e h => ?_, ?_, fun i hk hT e => ?_⟩
  · cases hstoreL.symm.trans e
    exact readByte_of_put rfl h
  · cases (hstoreW x).symm.trans e
    exact readByte_of_put rfl h
  · cases (hstoreB x).symm.trans e
    refine readByte_of_put (n := 1) rfl fun i hi => ?_
    simpa [Nat.lt_one_iff.1 hi] using h
  · rintro i (rfl | ⟨a, rfl⟩) e h
    · cases hpushL.symm.trans e
      exact readByte_of_put rfl h
    · cases (callPushesTheReturnAddress s a).symm.trans e
      exact readByte_of_put rfl h
  · cases hpushW.symm.trans e
    exact readByte_of_put rfl h
  · rintro i (rfl | rfl) e h
    · cases hbrk.symm.trans e
      exact readByte_of_put rfl h
    · cases hcop.symm.trans e
      exact readByte_of_put rfl h
  · rcases exec_ofTable_next hT e with ⟨c, r, rfl⟩ | ⟨hmem, sig, u, hu, rfl⟩
    · rfl
    · exact readByte_of_mem (handlerOf_mem hu hk (testRom_pull_actionReg _ hmem)) b

end Sys2Proof.Machine
end

section
/-! SUPPORT. The debugger: the breakpoint map, the hit test, Run, Pause, Halt, Step and StepOver, and the line cache
(spec/44_debugger.md R250-R268). -/

namespace Sys2Proof.Machine

/-! ### The breakpoint map -/

/-- In a rising map no key is below the first one, and the first key is there once. -/
theorem key_ne_of_le_head {a b k : Long} {l m : String} {bs : List (Long × String)}
    (h : rising (((k, l) :: bs).map Prod.fst) = true) (ha : a.toNat ≤ k.toNat) (hb : (b, m) ∈ bs) : b ≠ a := by
  rw [rising_iff_pairwise] at h
  have hlt : k.toNat < b.toNat := (List.pairwise_cons.1 h).1 b (List.mem_map_of_mem (f := Prod.fst) hb)
  rintro rfl
  omega

/-- The entries after an add (spec/44_debugger.md R256). -/
theorem mem_putBreakpoint (a : Long) (l : String) {bs : List (Long × String)} (b : Long) (m : String)
    (h : rising (bs.map Prod.fst) = true) :
    (b, m) ∈ putBreakpoint a l bs ↔ (b = a ∧ m = l) ∨ (b ≠ a ∧ (b, m) ∈ bs) := by
  induction bs with
  | nil => simp [putBreakpoint]
  | cons e bs ih =>
    obtain ⟨k, lk⟩ := e
    have htail : rising (bs.map Prod.fst) = true := by
      rw [rising_iff_pairwise] at h ⊢
      exact (List.pairwise_cons.1 h).2
    unfold putBreakpoint
    split_ifs with hlt heq
    · have hne : (b, m) ∈ (k, lk) :: bs → b ≠ a := by
        rw [List.mem_cons, Prod.mk.injEq]
        rintro (⟨rfl, -⟩ | hb)
        · rintro rfl
          exact lt_irrefl _ hlt
        · exact key_ne_of_le_head h hlt.le hb
      rw [List.mem_cons, Prod.mk.injEq, and_iff_right_of_imp hne]
    · subst heq
      have hne : (b, m) ∈ bs → b ≠ a := key_ne_of_le_head h le_rfl
      simp only [List.mem_cons, Prod.mk.injEq]
      tauto
    · have hne : b = k → b ≠ a := fun hbk hba => heq (hba.symm.trans hbk)
      simp only [List.mem_cons, Prod.mk.injEq, ih htail]
      tauto

/-- The entries after a remove (spec/44_debugger.md R257). -/
theorem mem_dropBreakpoint (a : Long) (bs : List (Long × String)) (b : Long) (m : String) :
    (b, m) ∈ dropBreakpoint a bs ↔ b ≠ a ∧ (b, m) ∈ bs := by
  simp [dropBreakpoint, and_comm]

theorem hasBreakpoint_iff (bs : List (Long × String)) (a : Long) :
    hasBreakpoint bs a = true ↔ ∃ l, (a, l) ∈ bs := by
  simp [hasBreakpoint]

theorem pause_breakpoints (s : State) : s.pause.breakpoints = s.breakpoints := by rw [pause_eq]

theorem addBreakpoint_eq (s : State) (a : Long) (l : String) :
    s.addBreakpoint a l = { s.pause with breakpoints := putBreakpoint a l s.breakpoints } := by
  simp only [State.addBreakpoint, pause_breakpoints]

theorem removeBreakpoint_eq (s : State) (a : Long) :
    s.removeBreakpoint a = { s.pause with breakpoints := dropBreakpoint a s.breakpoints } := by
  simp only [State.removeBreakpoint, pause_breakpoints]

/-- Settles O56: the entries after an add by induction over the rising map, after a remove by its filter; each command
edits what a Pause leaves. -/
theorem breakpointMap : Obligations.BreakpointMap := by
  unfold Obligations.BreakpointMap
  refine ⟨fun bs a b l m h => ⟨mem_putBreakpoint a l b m h, mem_dropBreakpoint a bs b m, ?_⟩,
    fun s a l on cats => ⟨addBreakpoint_eq s a l, removeBreakpoint_eq s a, rfl⟩⟩
  simp [putBreakpoint, dropBreakpoint]

/-! ### The line cache -/

/-- A line inserted for an address that has none stands beside the others (spec/44_debugger.md R263). -/
theorem mem_insertLine (k l : DebugLine) {ls : List DebugLine} (h : ∀ x ∈ ls, x.address ≠ l.address) :
    k ∈ insertLine l ls ↔ k = l ∨ k ∈ ls := by
  induction ls with
  | nil => simp [insertLine]
  | cons x xs ih =>
    obtain ⟨hx, hxs⟩ := List.forall_mem_cons.1 h
    unfold insertLine
    split_ifs with hlt heq
    · exact List.mem_cons
    · exact absurd heq.symm hx
    · rw [List.mem_cons, ih hxs, List.mem_cons, or_left_comm]

theorem findLine_eq_none_iff (ls : List DebugLine) (a : Long) :
    findLine ls a = none ↔ ∀ l ∈ ls, l.address ≠ a := by
  simp [findLine]

/-- A decode record is of the address asked for. -/
theorem decodeAt_address {s : State} {a : Long} {r : DecodeRecord} (h : s.decodeAt a = some r) : r.address = a := by
  unfold State.decodeAt at h
  split at h
  · cases h
  · cases h; rfl

/-- GetLine of a cached address. -/
theorem cacheLine_of_cached {s : State} {l : DebugLine} (hl : l ∈ s.lineCache) : s.cacheLine l.address = s := by
  unfold State.cacheLine
  split
  · rfl
  · next hnone => exact absurd rfl ((findLine_eq_none_iff _ _).1 hnone l hl)

/-- GetLine of an address with no decode record. -/
theorem cacheLine_of_undecoded {s : State} {a : Long} (h : s.decodeAt a = none) : s.cacheLine a = s := by
  unfold State.cacheLine
  rw [h]
  split <;> rfl

/-- GetLine of an absent address with a decode record. -/
theorem cacheLine_of_absent {s : State} {a : Long} {r : DecodeRecord} (h : ∀ l ∈ s.lineCache, l.address ≠ a)
    (hr : s.decodeAt a = some r) : s.cacheLine a = { s with lineCache := insertLine (lineOf r) s.lineCache } := by
  unfold State.cacheLine
  rw [(findLine_eq_none_iff _ _).2 h, hr]

/-- InvalidateLines keeps the lines of a Pause that are outside the range (spec/44_debugger.md R268). -/
theorem mem_invalidateLines (s : State) (lo hi : Long) (l : DebugLine) :
    l ∈ (s.invalidateLines lo hi).lineCache ↔
      l ∈ s.pause.lineCache ∧ ¬(lo.toNat ≤ l.address.toNat ∧ l.address.toNat ≤ hi.toNat) := by
  simp only [State.invalidateLines, List.mem_filter, Bool.not_eq_true', ← Bool.not_eq_true, Bool.and_eq_true,
    decide_eq_true_eq]

/-- Settles O59: GetLine by the line it finds and the record it decodes, and InvalidateLines by its filter. -/
theorem lineCacheCommands : Obligations.LineCacheCommands := by
  unfold Obligations.LineCacheCommands
  intro s a
  obtain ⟨hnone, -, -⟩ := decodeIsWithoutSideEffects s a
  refine ⟨?_, fun hout => cacheLine_of_undecoded (hnone hout), fun r habsent hr => ?_, ?_, rfl,
    fun hi l => mem_invalidateLines s a hi l, fun hi => rfl, rfl⟩
  · rintro l hl rfl
    exact cacheLine_of_cached hl
  · obtain rfl : r.address = a := decodeAt_address hr
    have hline : s.cacheLine r.address = { s with lineCache := insertLine (lineOf r) s.lineCache } :=
      cacheLine_of_absent habsent hr
    exact ⟨hline, fun k => by rw [hline]; exact mem_insertLine k (lineOf r) habsent⟩
  · simp only [State.revalidate, bne, ne_eq, decide_not, beq_eq_decide]

/-! ### The hit test -/

/-- A watched pin is active: the watch is on, and a pin of its categories is high (spec/44_debugger.md R258). -/
theorem watchedPin_iff (s : State) :
    s.watchedPin = true ↔
      s.watchInterrupts = true ∧
        (s.watchedCats.irq = true ∧ s.pins.irq = true ∨ s.watchedCats.nmi = true ∧ s.pins.nmi = true ∨
          s.watchedCats.abort = true ∧ s.pins.abort = true ∨ s.watchedCats.reset = true ∧ s.pins.reset = true) := by
  simp only [State.watchedPin, Bool.and_eq_true, Bool.or_eq_true, or_assoc]

/-- The pc is at a BRK opcode below MEM_LIMIT. -/
theorem atBrkOpcode_iff (s : State) :
    (!outOfRange s.cfg s.pc && s.readByte s.pc == 0) = true ↔
      s.pc.toNat < s.cfg.memLimit ∧ s.readByte s.pc = 0 := by
  rw [Bool.and_eq_true, Bool.not_eq_true', outOfRange_eq_false_iff, beq_iff_eq]

theorem hitTest_paused {s : State} (h : s.pauseFlag = true) : s.hitTest = s := if_pos h

theorem hitTest_of_noReason {s : State} (hr : s.hitReason = none) : s.hitTest = s := by simp [State.hitTest, hr]

theorem hitTest_of_reason {s : State} {r : HitReason} (hf : s.pauseFlag = false) (hr : s.hitReason = some r) :
    s.hitTest = { s with pauseFlag := true, ephemeral := none, lastHit := some (r, s.pc) }.refresh := by
  simp [State.hitTest, hf, hr]

/-- Settles O53: each reason is the first test of R258 that holds; the effect follows the reason. -/
theorem hitTestReasons : Obligations.HitTestReasons := by
  unfold Obligations.HitTestReasons
  intro s
  have hnoKey : (∀ l, (s.pc, l) ∉ s.breakpoints) → ¬hasBreakpoint s.breakpoints s.pc = true := fun hb hk =>
    let ⟨l, hl⟩ := (hasBreakpoint_iff ..).1 hk
    hb l hl
  refine ⟨hitTest_paused, fun he => if_pos he, fun he hb => ?_, fun he hb hin hop => ?_, fun he hb hop => ?_,
    fun _ => hitTest_of_noReason, fun r => hitTest_of_reason⟩
  · unfold State.hitReason
    rw [if_neg he, if_pos ((hasBreakpoint_iff ..).2 hb)]
  · unfold State.hitReason
    rw [if_neg he, if_neg (hnoKey hb), if_pos ((atBrkOpcode_iff s).2 ⟨hin, hop⟩)]
  · have hno : ¬(!outOfRange s.cfg s.pc && s.readByte s.pc == 0) = true := fun hbrk => by
      obtain ⟨hin, hzero⟩ := (atBrkOpcode_iff s).1 hbrk
      exact hop.elim (fun hout => absurd hin hout.not_gt) fun hne => hne hzero
    unfold State.hitReason
    rw [if_neg he, if_neg (hnoKey hb), if_neg hno, if_congr (watchedPin_iff s) rfl rfl]

/-! ### Run, Pause and Halt -/

theorem run_paused {s : State} (hp : s.pauseFlag = true) (hc : s.cpuState ≠ .halted) :
    s.run = { s with pauseFlag := false } := by
  simp [State.run, hp, hc]

theorem run_halted {s : State} (hc : s.cpuState = .halted) : s.run = s := by simp [State.run, hc]

theorem run_running {s : State} (hp : s.pauseFlag = false) : s.run = s := if_pos hp

/-- Settles O57: Run by its three cases, Pause up to the line cache, Halt as a command by the run it finds. -/
theorem runPauseHalt : Obligations.RunPauseHalt := by
  unfold Obligations.RunPauseHalt
  intro s
  refine ⟨run_paused, fun _ => run_halted, run_running, rfl, pause_eq s, rfl, fun hp => if_pos hp, fun hp => ?_⟩
  rcases hostHalt_cases s with ⟨hp', -⟩ | ⟨-, hhalt⟩
  · rw [hp] at hp'; cases hp'
  · exact hhalt

/-! ### Step and StepOver -/

/-- An instruction decoded in full whose descriptor has the step-over flag is eligible (spec/44_debugger.md R252). -/
theorem eligible_of_decodeAt {s : State} {a : Long} {r : DecodeRecord} (h : s.decodeAt a = some r)
    (ht : r.truncated = false) (ho : r.descriptor.stepOver = true) : s.eligible a = some r := by
  simp [State.eligible, h, ht, ho]

theorem pause_eligible (s : State) : s.pause.eligible s.pause.pc = s.eligible s.pc := by rw [pause_eq]; rfl

theorem pause_pauseFlag (s : State) : s.pause.pauseFlag = true := by rw [pause_eq]

theorem pause_nextPc (s : State) (n : Nat) : s.pause.nextPc n = s.nextPc n := by rw [pause_eq]; rfl

/-- StepOver of an eligible instruction: from the paused state, with the ephemeral breakpoint installed, it runs. -/
theorem debugStepOver_of_eligible {s : State} {r : DecodeRecord} (he : s.eligible s.pc = some r)
    (hc : s.cpuState ≠ .halted) :
    s.debugStepOver = .next { s.pause with ephemeral := some (s.nextPc r.length), pauseFlag := false } := by
  have hc' : s.pause.cpuState ≠ .halted := by rwa [pause_cpuState]
  unfold State.debugStepOver
  simp only [pause_eligible, he, if_neg hc']
  rw [← pause_nextPc]
  exact congrArg Host.Outcome.next
    (run_paused (s := { s.pause with ephemeral := some (s.pause.nextPc r.length) }) (pause_pauseFlag s) hc')

/-- Settles O58: Step is one ExecuteNext of the paused state; StepOver runs at an eligible instruction, and is Step
elsewhere. -/
theorem stepOverInstallsTheEphemeralBreakpoint : Obligations.StepOverInstallsTheEphemeralBreakpoint := by
  unfold Obligations.StepOverInstallsTheEphemeralBreakpoint
  intro s
  exact ⟨fun t e => andThen_of_next e State.refresh,
    fun r hr ht ho hc => debugStepOver_of_eligible (eligible_of_decodeAt hr ht ho) hc, debugStepOver_eq_debugStep⟩

end Sys2Proof.Machine
end

section
/-! SUPPORT. Trap entry, the fatal errors of the table, and pins (spec/60_exceptions.md R283, R284, R290, R300-R302):
which pin a step services, and the step that services one. -/

namespace Sys2Proof.Machine

/-- Settles O15: trap entry as one update of the state. -/
theorem trapEntry : Obligations.TrapEntry := enter_eq_entered

/-- Settles O24: 3 is no operand count, so PUSH raises it before it reads anything. -/
theorem fatalErrors : Obligations.FatalErrors := by
  unfold Obligations.FatalErrors
  intro s
  have hpush : handlePush rowPushD0Count3 0 (s.advanced rowPushD0Count3) = .raised 3 (s.advanced rowPushD0Count3) := rfl
  exact ⟨runHandler_raised hpush, fun _ => rfl⟩

/-! ### The pin a step services -/

theorem select_eq (s : State) :
    s.select =
      if s.pins.reset = true then some .reset
      else if s.pins.abort = true then some (.trap .abort)
      else if s.pins.nmi = true then some (.trap .nmi)
      else if s.pins.irq = true ∧ s.sr.i.toNat < s.cfg.irqLevel.toNat then some (.trap .irq)
      else none := by
  simp only [State.select, Bool.and_eq_true, decide_eq_true_eq, BitVec.lt_def]

/-- Settles O40: the pins in the rule's order, each looked at when those before it are inactive. -/
theorem pinPriority : Obligations.PinPriority := by
  unfold Obligations.PinPriority
  intro s
  rw [select_eq]
  cases s.pins.reset with
  | true => simp
  | false =>
    cases s.pins.abort with
    | true => simp
    | false =>
      cases s.pins.nmi with
      | true => simp
      | false => by_cases hirq : s.pins.irq = true ∧ s.sr.i.toNat < s.cfg.irqLevel.toNat <;> simp [hirq]

/-! ### The step that services a pin -/

/-- An interrupt clears the one pin that asked for it. -/
theorem clear_eq (p : Pins) (t : Trap) :
    p.clear t =
      { p with
        irq := if t = .irq then false else p.irq
        nmi := if t = .nmi then false else p.nmi
        abort := if t = .abort then false else p.abort } := by
  cases t <;> rfl

/-- An interrupt taken: the entry, the pin cleared, INT_CYCLES charged (spec/60_exceptions.md R284). -/
theorem takeInterrupt_eq (s : State) (t : Trap) :
    s.takeInterrupt t =
      { s.entered t s.pc with
        pins := (s.entered t s.pc).pins.clear t
        cycles := s.cycles + BitVec.ofNat 64 s.cfg.intCycles } := by
  simp only [State.takeInterrupt, enter_eq_entered]
  rfl

theorem executeNext_services {s : State} {v : Service} (hd : s.resetDone = true) (hh : s.cpuState ≠ .halted)
    (hr : s.pins.ready = true) (hv : s.select = some v) :
    s.executeNext = .next { s.service v with stepResult := true } := by
  simp [State.executeNext, hd, hh, hr, hv]

/-- After a step that returned true the worker does its hit test (spec/42_engine.md R184). -/
theorem afterStep_returnedTrue {s : State} (hr : s.stepResult = true) : s.afterStep = s.hitTest := if_pos hr

/-- A step that finds a pin to service does that alone; in free-run the hit test follows. -/
theorem step_services {s : State} {rest : List Move} {v : Service} (h : s.EngineTurn rest) (hh : s.cpuState ≠ .halted)
    (hr : s.pins.ready = true) (hv : s.select = some v) :
    let u := { (s.begun rest).service v with stepResult := true }
    step s = .next (if s.pauseFlag = true then u else u.hitTest) := by
  rw [step_engineTurn h, executeNext_services (s := s.begun rest) h.firstResetDone hh hr hv]
  split
  · rfl
  · rw [andThen, afterStep_returnedTrue rfl]

/-- Settles O41: the service of a trap's pin is that interrupt taken, at the pc where the step would have fetched. -/
theorem pinServiceConsumesTheStep : Obligations.PinServiceConsumesTheStep := by
  unfold Obligations.PinServiceConsumesTheStep
  intro s rest t h hh hr hv
  have hstep := step_services h hh hr hv
  simp only [State.service, takeInterrupt_eq, clear_eq] at hstep
  exact hstep

end Sys2Proof.Machine
end

section
/-! SUPPORT. Two runs of an instruction under different debuggers (spec/60_exceptions.md R314, 20_memory.md R79): reads
of the machine do not see the debugger, each operation carries it along unchanged, and so does every handler. -/

namespace Sys2Proof.Machine

/-- What the debugger holds (spec/10_state.md R41, R46-R50). -/
structure DebuggerView where
  breakpoints : List (Long × String)
  ephemeral : Option Long
  pauseFlag : Bool
  watchInterrupts : Bool
  watchedCats : PinSet
  lineCache : List DebugLine
  lastHit : Option (HitReason × Long)

/-- The same machine under another debugger. -/
def State.withDebugger (s : State) (v : DebuggerView) : State :=
  { s with
    breakpoints := v.breakpoints
    ephemeral := v.ephemeral
    pauseFlag := v.pauseFlag
    watchInterrupts := v.watchInterrupts
    watchedCats := v.watchedCats
    lineCache := v.lineCache
    lastHit := v.lastHit }

section
variable (s : State) (v : DebuggerView)

/-! ### Reads -/

@[simp] theorem withDebugger_cfg : (s.withDebugger v).cfg = s.cfg := rfl
@[simp] theorem withDebugger_pc : (s.withDebugger v).pc = s.pc := rfl
@[simp] theorem withDebugger_reg (r : Reg) : (s.withDebugger v).reg r = s.reg r := by cases r <;> rfl
@[simp] theorem withDebugger_peek (a : Long) (n : Nat) : (s.withDebugger v).peek a n = s.peek a n :=
  peek_of_mem (s := s.withDebugger v) (t := s) rfl a n
@[simp] theorem withDebugger_operand (d : Descriptor) (sig : Long) :
    (s.withDebugger v).operand d sig = s.operand d sig := rfl
@[simp] theorem withDebugger_pending (d : Descriptor) : (s.withDebugger v).pending d = s.pending d := rfl
@[simp] theorem stackPending_withDebugger (d : Descriptor) :
    stackPending d (s.withDebugger v) = stackPending d s := rfl
@[simp] theorem withDebugger_xr (r : Reg) (n : Nat) : (s.withDebugger v).xr r n = s.xr r n := rfl

/-! ### Operations -/

@[simp] theorem withDebugger_didRead (a : Long) (n : Nat) :
    (s.withDebugger v).didRead a n = (s.didRead a n).withDebugger v := by
  simp only [State.didRead, withDebugger_peek]
  rfl

@[simp] theorem withDebugger_memWrite (a : Long) (n : Nat) (x : Long) :
    (s.withDebugger v).memWrite a n x = (s.memWrite a n x).withDebugger v := rfl

@[simp] theorem withDebugger_setPc (t : Long) : (s.withDebugger v).setPc t = (s.setPc t).withDebugger v := rfl

@[simp] theorem withDebugger_setReg (r : Reg) (x : Long) :
    (s.withDebugger v).setReg r x = (s.setReg r x).withDebugger v := by
  cases r
  case a7 => exact (apply_ite (·.withDebugger v) (s.sr.s = true) { s with ssp := x } { s with usp := x }).symm
  all_goals rfl

@[simp] theorem withDebugger_jumpVector (a : Long) :
    (s.withDebugger v).jumpVector a = (s.jumpVector a).withDebugger v := by
  simp only [jumpVector_eq, State.vecRecord, withDebugger_peek]
  rfl

@[simp] theorem withDebugger_enter (t : Trap) : (s.withDebugger v).enter t = (s.enter t).withDebugger v := by
  simp only [State.enter, ← withDebugger_jumpVector]
  rfl

@[simp] theorem withDebugger_popPc : (s.withDebugger v).popPc = s.popPc.withDebugger v := by
  simp [State.popPc, State.jumpLong]

@[simp] theorem withDebugger_applyPending (u : Option Pending) :
    (s.withDebugger v).applyPending u = (s.applyPending u).withDebugger v := by
  cases u with
  | none => rfl
  | some p => exact withDebugger_setReg s v _ _

/-! ### Operations that can report a width -/

@[simp] theorem withDebugger_xw (r : Reg) (n : Nat) (x : Long) :
    (s.withDebugger v).xw r n x = (s.xw r n x).map (·.withDebugger v) := by
  cases hb : r.badWidth n <;> simp [State.xw, hb, Except.map]

@[simp] theorem withDebugger_xwCommit (u : Option Pending) (r : Reg) (n : Nat) (x : Long) :
    (s.withDebugger v).xwCommit u r n x = (s.xwCommit u r n x).map (·.withDebugger v) := by
  cases hb : r.badWidth n <;> simp [State.xwCommit, hb, Except.map]

@[simp] theorem withDebugger_setNZ (x : Long) (w : Nat) :
    (s.withDebugger v).setNZ x w = (s.setNZ x w).map (·.withDebugger v) := by
  simp only [State.setNZ, State.withDebugger]
  cases s.sr.setNZ x w <;> rfl

@[simp] theorem withDebugger_setNZUnlessSr (r : Reg) (x : Long) (w : Nat) :
    (s.withDebugger v).setNZUnlessSr r x w = (s.setNZUnlessSr r x w).map (·.withDebugger v) := by
  by_cases hr : r = .sr
  · simp [State.setNZUnlessSr, hr, Except.map]
  · simp [State.setNZUnlessSr, hr]

@[simp] theorem withDebugger_readOp (op : Operand) (w : Nat) :
    (s.withDebugger v).readOp op w = (s.readOp op w).map (Prod.map id (·.withDebugger v)) := by
  cases op with
  | reg r => cases hb : r.badWidth w <;> simp [State.readOp, State.xr, hb, Except.map]
  | mem ea => cases hw : validCount w <;> simp [State.readOp, hw, Except.map]
  | imm x => rfl
  | noOperand => rfl

@[simp] theorem withDebugger_writeOp (op : Operand) (w : Nat) (x : Long) :
    (s.withDebugger v).writeOp op w x = (s.writeOp op w x).map (·.withDebugger v) := by
  cases op with
  | reg r => exact withDebugger_xw s v r w x
  | mem ea => cases hw : validCount w <;> simp [State.writeOp, hw, Except.map]
  | imm x => rfl
  | noOperand => rfl

@[simp] theorem withDebugger_storeOp (op : Operand) (w : Nat) (x : Long) :
    (s.withDebugger v).storeOp op w x = (s.storeOp op w x).map (·.withDebugger v) := by
  simp only [State.storeOp, withDebugger_writeOp]
  cases s.writeOp op w x with
  | error n => rfl
  | ok t =>
    simp only [Except.map]
    split <;> rfl

@[simp] theorem pushSource_withDebugger (d : Descriptor) (sig : Long) :
    pushSource d sig (s.withDebugger v) = (pushSource d sig s).map (Prod.map id (·.withDebugger v)) := by
  unfold pushSource
  cases d.actionReg with
  | some r => cases hb : r.badWidth d.count <;> simp [State.xr, hb, Except.map]
  | none => simp

end

/-! ### Handlers -/

/-- The same answer of a handler, with its states changed. -/
def HandlerResult.map (g : State → State) : HandlerResult → HandlerResult
  | .done s => .done (g s)
  | .raised n s => .raised n (g s)
  | .refused r => .refused r

section
variable (s : State) (v : DebuggerView) (d : Descriptor) (sig : Long)

theorem handlePush_withDebugger :
    handlePush d sig (s.withDebugger v) = (handlePush d sig s).map (·.withDebugger v) := by
  simp only [handlePush, pushSource_withDebugger]
  split
  · rfl
  · cases pushSource d sig s <;> simp [Except.map, HandlerResult.map]

theorem handlePull_withDebugger :
    handlePull d sig (s.withDebugger v) = (handlePull d sig s).map (·.withDebugger v) := by
  simp only [handlePull]
  split
  · rfl
  · cases d.actionReg with
    | some r => cases hb : r.badWidth d.count <;> simp [State.xw, hb, HandlerResult.map]
    | none =>
      simp only [withDebugger_reg, withDebugger_peek, withDebugger_didRead, withDebugger_setReg, withDebugger_pending,
        withDebugger_applyPending, withDebugger_operand, withDebugger_writeOp]
      generalize State.writeOp _ _ _ _ = written
      cases written <;> rfl

theorem loadInto_withDebugger (r : Reg) :
    loadInto r d sig (s.withDebugger v) = (loadInto r d sig s).map (·.withDebugger v) := by
  simp only [loadInto, withDebugger_operand, withDebugger_readOp, withDebugger_pending]
  cases s.readOp (s.operand d sig) d.w with
  | error n => rfl
  | ok p =>
    obtain ⟨x, t⟩ := p
    simp only [Except.map, Prod.map, id, withDebugger_xwCommit]
    cases t.xwCommit (s.pending d) r d.w x with
    | error n => rfl
    | ok u =>
      simp only [withDebugger_setNZUnlessSr]
      cases u.setNZUnlessSr r x d.w <;> rfl

theorem storeFrom_withDebugger (r : Reg) :
    storeFrom r d sig (s.withDebugger v) = (storeFrom r d sig s).map (·.withDebugger v) := by
  simp only [storeFrom, withDebugger_xr, withDebugger_pending, withDebugger_applyPending, withDebugger_operand,
    withDebugger_storeOp]
  cases s.xr r d.w with
  | error n => rfl
  | ok x =>
    dsimp only
    cases (s.applyPending (s.pending d)).storeOp (s.operand d sig) d.w x with
    | error n => rfl
    | ok t =>
      simp only [Except.map, withDebugger_setNZUnlessSr]
      cases t.setNZUnlessSr r x d.w <;> rfl

end

/-! ### The run of an OTHER handler -/

/-- The same point of an OTHER handler's run under another debugger. -/
def OtherRun.withDebugger (r : OtherRun) (v : DebuggerView) : OtherRun := { r with state := r.state.withDebugger v }

section
variable (r : OtherRun) (v : DebuggerView)

@[simp] theorem OtherRun.withDebugger_state : (r.withDebugger v).state = r.state.withDebugger v := rfl
@[simp] theorem OtherRun.withDebugger_operand : (r.withDebugger v).operand = r.operand := rfl
@[simp] theorem OtherRun.withDebugger_val (i : Nat) : (r.withDebugger v).val i = r.val i := rfl
@[simp] theorem OtherRun.withDebugger_skips (o : OtherOp) : (r.withDebugger v).skips o = r.skips o := rfl

theorem OtherRun.withDebugger_writeReg (q : Reg) (n : Nat) (x : Long) :
    (r.withDebugger v).writeReg q n x = (r.writeReg q n x).map (·.withDebugger v) := by
  simp only [OtherRun.writeReg, OtherRun.withDebugger_state, withDebugger_xw]
  cases r.state.xw q n x <;> rfl

theorem OtherRun.withDebugger_op (d : Descriptor) (sig : Long) (o : OtherOp) :
    (r.withDebugger v).op d sig o = (r.op d sig o).map (·.withDebugger v) := by
  cases o <;>
    simp only [OtherRun.op, OtherRun.withDebugger_state, OtherRun.withDebugger_operand, OtherRun.withDebugger_val]
  case readReg q n =>
    rw [withDebugger_xr]
    cases r.state.xr q n <;> rfl
  case writeReg q n i => exact r.withDebugger_writeReg v q n (r.val i)
  case setNZ i n =>
    rw [withDebugger_setNZ]
    cases r.state.setNZ (r.val i) n <;> rfl
  case ea => split <;> rfl
  case readOp n =>
    rw [withDebugger_readOp]
    cases r.state.readOp r.operand n <;> rfl
  case writeOp n i =>
    cases r.operand with
    | reg q => exact r.withDebugger_writeReg v q n (r.val i)
    | mem ea =>
      dsimp only
      rw [withDebugger_writeOp]
      cases r.state.writeOp (.mem ea) n (r.val i) <;> rfl
    | imm x => rfl
    | noOperand => rfl
  case memRead i n =>
    rw [withDebugger_didRead, withDebugger_peek]
    split <;> rfl
  case memWrite => split <;> rfl
  case jumpVector => rw [withDebugger_jumpVector]; rfl
  case enter => rw [withDebugger_enter]; rfl
  all_goals rfl

theorem OtherRun.withDebugger_commit : (r.withDebugger v).commit = r.commit.withDebugger v := by
  simp only [OtherRun.commit, OtherRun.withDebugger, withDebugger_setReg]
  split
  · split <;> rfl
  · rfl

theorem OtherRun.run_withDebugger (d : Descriptor) (sig : Long) (k : Nat) (p : OtherProgram) :
    OtherRun.run d sig k (r.withDebugger v) p = (OtherRun.run d sig k r p).map (·.withDebugger v) := by
  induction p generalizing k r with
  | nil => exact congrArg HandlerResult.done (r.withDebugger_commit v)
  | cons o os ih =>
    cases k with
    | succ k =>
      have hskip : (if o.yields then (r.withDebugger v).push 0 else r.withDebugger v) =
          (if o.yields then r.push 0 else r).withDebugger v := by
        split <;> rfl
      simp only [OtherRun.run, hskip, ih]
    | zero =>
      have hop := r.withDebugger_op v d sig o
      cases ho : r.op d sig o with
      | error n =>
        rw [ho] at hop
        rw [OtherRun.run_cons_error ho, OtherRun.run_cons_error hop]
        rfl
      | ok t =>
        rw [ho] at hop
        rw [OtherRun.run_cons_ok ho, OtherRun.run_cons_ok hop, OtherRun.withDebugger_skips]
        exact ih t _

end

/-! ### Every instruction -/

section
variable (s : State) (v : DebuggerView) (d : Descriptor) (sig : Long)

theorem handleOther_withDebugger :
    handleOther d sig (s.withDebugger v) = (handleOther d sig s).map (·.withDebugger v) := by
  have hrun := fun p => OtherRun.run_withDebugger (OtherRun.start s) v d sig 0 p
  have hstart : OtherRun.start (s.withDebugger v) = (OtherRun.start s).withDebugger v := rfl
  simp only [handleOther, withDebugger_cfg, hstart, hrun]
  split
  · rfl
  · next prog _ => cases OtherRun.run d sig 0 (OtherRun.start s) prog <;> rfl

theorem handlerOf_withDebugger :
    handlerOf d sig (s.withDebugger v) = (handlerOf d sig s).map (·.withDebugger v) := by
  unfold handlerOf
  cases d.kind with
  | push => exact handlePush_withDebugger s v d sig
  | pull => exact handlePull_withDebugger s v d sig
  | load =>
    simp only [handleLoad]
    split
    · exact loadInto_withDebugger s v d sig _
    · rfl
  | store =>
    simp only [handleStore]
    split
    · exact storeFrom_withDebugger s v d sig _
    · rfl
  | other => exact handleOther_withDebugger s v d sig
  | brk | cop => exact congrArg HandlerResult.done (withDebugger_enter s v _)
  | rti | ret => exact congrArg HandlerResult.done (withDebugger_popPc s v)
  | jmpv => exact congrArg HandlerResult.done (withDebugger_jumpVector s v _)
  | call => simp [handleCall, HandlerResult.map, State.jumpLong]
  | unimpl | stop | jmps | jmpl => rfl

/-- What an instruction that leaves `t` leaves under another debugger: that debugger as it was, but that an error has
paused and removed the ephemeral breakpoint, as in `t` (spec/60_exceptions.md R300). -/
def State.leftUnder (v : DebuggerView) (t : State) : State :=
  if t.stepResult = true then t.withDebugger v
  else t.withDebugger { v with ephemeral := t.ephemeral, pauseFlag := t.pauseFlag }

theorem runHandler_withDebugger {f : State → HandlerResult}
    (hf : ∀ u : State, f (u.withDebugger v) = (f u).map (·.withDebugger v)) :
    runHandler d f (s.withDebugger v) = andThen (runHandler d f s) (State.leftUnder v) := by
  simp only [runHandler, withDebugger_pc, withDebugger_setPc, hf]
  cases f (s.advanced d) <;> rfl

/-- The signature that `exec_ofTable` finds does not depend on the state. -/
theorem exec_eq_runHandler {i : Instr} (h : OfTable i) (hk : i.descriptor.kind ≠ .unimpl) (s : State) :
    exec i s = runHandler i.descriptor (handlerOf i.descriptor i.signature) s := by
  cases i with
  | unimpl op => exact absurd rfl hk
  | other d g => exact absurd rfl (h d g).2
  | configured d g => exact absurd rfl (h d g).1
  | _ => rfl

/-- Every instruction does the same under another debugger. -/
theorem exec_withDebugger (i : Instr) : exec i (s.withDebugger v) = andThen (exec i s) (State.leftUnder v) := by
  rcases instr_forms i with ⟨hT, hk, -⟩ | ⟨op, rfl⟩ | ⟨d, g, rfl⟩ | ⟨d, g, rfl⟩
  · rw [exec_eq_runHandler hT hk, exec_eq_runHandler hT hk]
    exact runHandler_withDebugger s v _ fun u => handlerOf_withDebugger u v _ _
  · rfl
  · simp only [exec, execOther]
    split
    · rfl
    · exact runHandler_withDebugger s v _ fun u => handleOther_withDebugger u v _ _
  · simp only [exec, execConfigured]
    split
    · rfl
    · split
      · rfl
      · exact runHandler_withDebugger s v _ fun u => handlerOf_withDebugger u v _ _

end

/-- Settles O38: the other debugger of the statement is a view of its own. -/
theorem debuggerIsUnobservable : Obligations.DebuggerIsUnobservable := by
  unfold Obligations.DebuggerIsUnobservable
  intro i s bs eph paused on cats ls hit
  exact exec_withDebugger s ⟨bs, eph, paused, on, cats, ls, hit⟩ i

end Sys2Proof.Machine
end

section
/-! SUPPORT. Reset and the RESET pin (spec/70_reset_and_hazards.md R320, R321). -/

namespace Sys2Proof.Machine

/-- The status register that Reset leaves is the word 0 unpacked. -/
theorem unpack_zero : SR.unpack 0 = SR.zero := by decide

/-- The RESET pin comes before every other (spec/60_exceptions.md R283). -/
theorem select_reset {s : State} (h : s.pins.reset = true) : s.select = some .reset := by
  rw [select_eq, if_pos h]

/-- Settles O42: Reset's record is a vectored jump with the registers cleared over it, and a step that finds the RESET
pin active services that pin, whatever other pin is active. -/
theorem resetEffect : Obligations.ResetEffect := by
  unfold Obligations.ResetEffect
  refine ⟨fun s => ?_, fun s rest h hh hr hreset => ?_⟩
  · rw [State.performReset, jumpVector_eq, unpack_zero]
    rfl
  · exact step_services h hh hr (select_reset hreset)

end Sys2Proof.Machine
end
